-- ==== Sys2Proof/Word.lean ====
section
/-! DEFINITION. The units of data of the engine (spec/00_scope.md R7, R8, R9). -/

namespace Sys2Proof

/-- A byte: 8 bits (R8). -/
abbrev Byte := BitVec 8

/-- A word: an unsigned 32-bit integer (R8). -/
abbrev Word := BitVec 32

/-- Addition modulo 2^32; the carry out of bit 31 is recorded nowhere (R9). -/
def add32 (x y : Word) : Word := x + y

end Sys2Proof
end

