-- ==== Sys2Proof/Config.lean ====
section
/-! DEFINITION. The parameters of an engine instance, open in the spec (spec/00_scope.md R5, R6;
spec/10_state.md R34). They are constants of the instance: no operation writes them. -/

namespace Sys2Proof

/-- `C` and `MAX_LEN` of one engine instance. DESIGN CHOICE (log 1): they travel in `State.cfg`, so
that a statement about every state is a statement about every instance. -/
structure Config where
  /-- `C`, the capacity of the chunk buffer in bytes (R5). -/
  capacity : Nat
  /-- `MAX_LEN`, the smallest message length that is rejected (R6). -/
  maxLen : Nat
deriving DecidableEq, Repr

/-- The constraints of R5 and R6. DEDUCED (log 2): `C` fits the 64-bit `arg` of `RD_REQ`, which
carries it (R75, R77). -/
abbrev Config.Valid (c : Config) : Prop :=
  c.capacity % 64 = 0 ∧ 0 < c.capacity ∧ c.capacity < 2 ^ 64 ∧ 1 ≤ c.maxLen ∧ c.maxLen ≤ 2 ^ 61

/-- The defaults of R5 and R6: 2 MiB and 4 GiB. -/
def Config.standard : Config := ⟨2097152, 4294967296⟩

end Sys2Proof
end

