-- ==== Sys2Proof/Machine/State.lean ====
section
/-! DEFINITION. The state of the engine (spec/10_state.md), as plain data, its reset values (R38), and the
reasons for which a step stops. -/

namespace Sys2Proof.Machine

/-- The phases of the sequencer (R31). The unassigned values 10 to 15 are never reached and cannot be
written here. -/
inductive Phase where
  | idle | probe | fill | plan | slice | expand | compress | synth | done | failed
deriving DecidableEq, Repr

/-- Which operation of the current row of the transition table (R117) runs next. A row of the table runs
up to three operations (`MARK`, `ZFILL`, `SUFFIX`), or one and then another (`SCHED 63`, `LDV`). The model's
own; DESIGN CHOICE (log 4). A resting phase is at `first`; no step brings it elsewhere, only the placement of an
outgoing transaction does (log 16). -/
inductive Pos where
  | first | second | third
deriving DecidableEq, Repr

/-- The chunk buffer's bytes that have been written, as cells in rising order of address. DESIGN CHOICE
(log 12): an unlisted byte has no value. -/
abbrev Memory := List Host.Cell

/-- All the state of the engine and of its interfaces. -/
structure State where
  /-- `C` and `MAX_LEN`, constants of the instance (R34). -/
  cfg : Config
  /-- `H[0..7]`, the hash state (R20). -/
  h : Vector Word 8
  /-- `a, b, c, d, e, f, g, h` in that order, the working variables (R21). -/
  v : Vector Word 8
  /-- `W[0..63]`, the message schedule (R22). -/
  w : Vector Word 64
  /-- `blk[0..63]`, the block latch (R23). -/
  blk : Vector Byte 64
  /-- `cbuf[0..C-1]`, the chunk buffer (R24). -/
  cbuf : Memory
  /-- `bytes_remaining` (R27). -/
  bytesRemaining : BitVec 64
  /-- `len_suffix[0..7]` (R28). -/
  lenSuffix : Vector Byte 8
  /-- `marker_emitted` (R29). -/
  markerEmitted : Bool
  /-- `bytes_read` (R30), a count; DESIGN CHOICE (log 3). -/
  bytesRead : Nat
  /-- `used` (R30), a count; DESIGN CHOICE (log 3). -/
  used : Nat
  /-- `nblk` (R30), a count; DESIGN CHOICE (log 3). -/
  nblk : Nat
  /-- `synth_pending` (R30). -/
  synthPending : Bool
  /-- `phase` of the sequencer state (R31). -/
  phase : Phase
  /-- `j`, the block index in the chunk (R31), a count; DESIGN CHOICE (log 3). -/
  j : Nat
  /-- `t`, the word or round index (R31). -/
  t : BitVec 6
  /-- `err` (R32). -/
  err : BitVec 3
  /-- The model's own: the operation within the current row of R117 (log 4). -/
  pos : Pos
  /-- The reset input: the host has applied reset and the engine has not yet taken it (R230; log 10). -/
  resetIn : Bool
  /-- Bytes presented on the incoming interface and not yet accepted, oldest first (R74; log 6). -/
  inbox : List Byte
  /-- Headers emitted on the outgoing interface, oldest first (R75; log 9). -/
  outbox : List (BitVec 72)
deriving DecidableEq, Repr

/-- Why a step stops the machine. -/
inductive Fault where
  /-- `SLICE` read a byte of `cbuf` that nothing has written (R38, R233). Safe: the model stops where the
  engine would read some byte; no run does so. -/
  | unwrittenByte (offset : Nat)
  /-- `MARK`, `ZFILL`, `SUFFIX` or `SLICE` reached outside `cbuf[0..C-1]`, where `MemRead` and `MemWrite` are
  not defined (R14, R64). Safe: no run does so. -/
  | outsideBuffer (offset : Nat)
deriving DecidableEq, Repr

/-- Why the engine does not take what it is given. -/
inductive Refusal where
  /-- An operation that has no meaning in the model, raised by `exec`'s arms only. Safe: the model stops. -/
  | notModelled (mnemonic : String)
  /-- A transaction presented in a phase that does not accept it, raised by `START`, `LEN`, `LEN_FAIL`,
  `DATA`, `RD_FAIL` (R80 b). Safe: the spec makes it a refusal. -/
  | notAccepted (phase : Phase)
  /-- A byte on the incoming interface that is no code of an incoming transaction, raised by the fetch
  (R80 a). Safe: the spec makes it a refusal. -/
  | unassignedCode (code : Byte)
  /-- Operands that cannot be formed or have no meaning, raised by `DATA`, `LDW`, `SCHED` (R80 c, d). Safe:
  no decoded operation has them. -/
  | noMeaning (mnemonic : String)
deriving DecidableEq, Repr

/-- The state after reset of an instance with parameters `c` (R38): `phase`, `err` and the two flags as the
rule gives them. DESIGN CHOICE (log 11): the registers the rule leaves unspecified are zero; nothing of
`cbuf` is written (log 12). -/
def State.resetOf (c : Config) : State where
  cfg := c
  h := Vector.replicate 8 0
  v := Vector.replicate 8 0
  w := Vector.replicate 64 0
  blk := Vector.replicate 64 0
  cbuf := []
  bytesRemaining := 0
  lenSuffix := Vector.replicate 8 0
  markerEmitted := false
  bytesRead := 0
  used := 0
  nblk := 0
  synthPending := false
  phase := .idle
  j := 0
  t := 0
  err := 0
  pos := .first
  resetIn := false
  inbox := []
  outbox := []

/-- The machine right after reset: the instance with the default parameters (R5, R6; log 1). -/
def State.reset : State := State.resetOf Config.standard

end Sys2Proof.Machine
end

