-- ==== Sys2Proof/Machine/Operands.lean ====
section
/-! DEFINITION. Where each operation's operands lie: every index and count an operation computes from the
registers (spec/20_memory.md R66, spec/30_encoding.md R76, R79), and the primitives on words
(spec/00_scope.md R10, R11). -/

namespace Sys2Proof.Machine

/-- `rotr(x, n)` for `0 < n < 32` (R10). -/
def rotr (x : Word) (n : Nat) : Word := (x >>> n) ||| (x <<< (32 - n))

/-- `x >> n`, the logical shift right (R11). -/
def shr (x : Word) (n : Nat) : Word := x >>> n

/-- `pad_zeros` (R79), with `rem = used mod 64`. -/
def padZeros (used : Nat) : Nat :=
  if used % 64 ≤ 56 then 56 - used % 64 else 120 - used % 64

/-- The condition `C - used < 8` (R110): the suffix does not fit in this chunk. -/
def suffixOverflows (s : State) : Bool := decide (s.cfg.capacity - s.used < 8)

/-- `MARK` writes at `bytes_read` (R66). -/
def markOffset (s : State) : Nat := s.bytesRead

/-- `ZFILL` writes from `used` (R66). -/
def zfillOffset (s : State) : Nat := s.used

/-- The count `z` the plan gives `ZFILL` (R110, R112): the rest of the chunk where the suffix does not fit,
else `pad_zeros`. -/
def zfillCount (s : State) : Nat :=
  if suffixOverflows s then s.cfg.capacity - s.used else padZeros s.used

/-- `SUFFIX` writes from `used + pad_zeros` (R66, R113). -/
def suffixOffset (s : State) : Nat := s.used + padZeros s.used

/-- `SLICE` reads from `64·j` (R66, R114). -/
def sliceOffset (s : State) : Nat := 64 * s.j

/-- How many blocks the chunk contributes where the suffix fits (R110). -/
def fittingBlocks (s : State) : Nat := (s.used + padZeros s.used + 8) / 64

/-- Byte `k` of the four that `LDW t` reads is `blk[4t + k]` (R66, R142), for `t ≤ 15`. -/
def blockByte (blk : Vector Byte 64) (t k : Nat) : Byte := blk[4 * t + k]?.getD 0

/-- `W[i]` for `i ≤ 63` (R66). -/
def scheduleWord (w : Vector Word 64) (i : Nat) : Word := w[i]?.getD 0

end Sys2Proof.Machine
end

