-- ==== Sys2Proof/Syntax.lean ====
section
/-! DEFINITION. The 19 operations of the engine, one constructor per row of spec/opcode_table.json
(spec/30_encoding.md R77). -/

namespace Sys2Proof

/-- An operation with its encoded operands. The count of `ZFILL`, the place of `SUFFIX` and the block
index of `SLICE` are in no encoding (R76): they come from the engine's registers. -/
inductive Instr where
  /-- `START`, host to engine (R100). Its `arg` is reserved and ignored (R74). -/
  | start
  /-- `LEN L`, source to engine (R101). -/
  | len (l : BitVec 64)
  /-- `LEN_FAIL`, source to engine (R102). -/
  | lenFail
  /-- `DATA n p`, source to engine (R103): the count and the payload. -/
  | data (n : BitVec 64) (payload : List Byte)
  /-- `RD_FAIL`, source to engine (R104). -/
  | rdFail
  /-- `LEN_REQ`, engine to source (R105). -/
  | lenReq
  /-- `RD_REQ C`, engine to source (R106). -/
  | rdReq (c : BitVec 64)
  /-- `DONE`, engine to host (R107). -/
  | done
  /-- `ERROR e`, engine to host (R108): the 3-bit error code. -/
  | error (e : BitVec 3)
  /-- `MARK` (R111). -/
  | mark
  /-- `ZFILL` (R112). -/
  | zfill
  /-- `SUFFIX` (R113). -/
  | suffix
  /-- `SLICE` (R114). -/
  | slice
  /-- `SYNTH` (R115). -/
  | synth
  /-- `LDW t` (R142). -/
  | ldw (t : BitVec 6)
  /-- `SCHED t` (R143). -/
  | sched (t : BitVec 6)
  /-- `LDV` (R164). -/
  | ldv
  /-- `ROUND i` (R165). -/
  | round (i : BitVec 6)
  /-- `FFWD` (R166). -/
  | ffwd
deriving DecidableEq, Repr

end Sys2Proof
end

