-- ==== Sys2Proof/Decode.lean ====
section
/-! DEFINITION. Decoding of bytes into operations, and the encoder (spec/30_encoding.md R74 to R77,
R80, R81), with the byte-order helpers of spec/00_scope.md R13. -/

namespace Sys2Proof

/-! ### Byte order (R13) -/

/-- `BE32`: four bytes as a word, the first the most significant. -/
def be32 (b0 b1 b2 b3 : Byte) : Word := b0 ++ b1 ++ b2 ++ b3

/-- Eight bytes as a 64-bit value, the first the most significant. -/
def be64 (b0 b1 b2 b3 b4 b5 b6 b7 : Byte) : BitVec 64 :=
  b0 ++ b1 ++ b2 ++ b3 ++ b4 ++ b5 ++ b6 ++ b7

/-- `bytesBE32`: the four bytes of a word, most significant first. -/
def bytesBE32 (w : Word) : List Byte :=
  [w.extractLsb' 24 8, w.extractLsb' 16 8, w.extractLsb' 8 8, w.extractLsb' 0 8]

/-- `bytesBE64`: the eight bytes of a 64-bit value, most significant first. -/
def bytesBE64 (v : BitVec 64) : Vector Byte 8 :=
  #v[v.extractLsb' 56 8, v.extractLsb' 48 8, v.extractLsb' 40 8, v.extractLsb' 32 8,
    v.extractLsb' 24 8, v.extractLsb' 16 8, v.extractLsb' 8 8, v.extractLsb' 0 8]

/-! ### The encoder -/

/-- The 9-byte header of formats T and Q: `code`, then `arg` big-endian (R74, R75). -/
def headerBytes (code : Byte) (arg : BitVec 64) : List Byte := code :: (bytesBE64 arg).toList

/-- The same header as one 72-bit number: `code` in bits 71:64, `arg` in bits 63:0. -/
def headerBits (code : Byte) (arg : BitVec 64) : BitVec 72 := code ++ arg

/-- The two bytes of a format U word, `uop` first, as rule R77's codes are printed in
spec/95_test_vectors.md (`500f`); bits 7:6 are zero (R76). DESIGN CHOICE (log 15): the spec never
serialises these words. -/
def uopBytes (uop : Byte) (idx : BitVec 6) : List Byte := [uop, idx.setWidth 8]

/-- The bytes of an operation (R74 to R77); reserved `arg` fields are written 0. -/
def encode : Instr → List Byte
  | .start => headerBytes 0x01 0
  | .len l => headerBytes 0x10 l
  | .lenFail => headerBytes 0x11 0
  | .data n p => headerBytes 0x12 n ++ p
  | .rdFail => headerBytes 0x13 0
  | .lenReq => headerBytes 0x20 0
  | .rdReq c => headerBytes 0x21 c
  | .done => headerBytes 0x28 0
  | .error e => headerBytes 0x29 (e.setWidth 64)
  | .mark => uopBytes 0x40 0
  | .zfill => uopBytes 0x41 0
  | .suffix => uopBytes 0x42 0
  | .slice => uopBytes 0x43 0
  | .synth => uopBytes 0x44 0
  | .ldw t => uopBytes 0x50 t
  | .sched t => uopBytes 0x51 t
  | .ldv => uopBytes 0x60 0
  | .round i => uopBytes 0x61 i
  | .ffwd => uopBytes 0x62 0

/-! ### The decoder -/

/-- Why bytes are no operation. -/
inductive DecodeError where
  /-- The bytes end before the operation does. -/
  | truncated
  /-- The first byte is no code of the operation map (R77, R80 a). -/
  | unassignedCode (code : Byte)
  /-- The code is assigned, but a field that the format fixes holds another value (R76, R77, R80 d). -/
  | reservedField (code : Byte)
deriving DecidableEq, Repr

/-- The codes of incoming transactions: format T (R77, R80 a). -/
def incomingCode (c : Byte) : Bool :=
  c == 0x01 || c == 0x10 || c == 0x11 || c == 0x12 || c == 0x13

/-- The codes of outgoing transactions: format Q (R77). -/
def outgoingCode (c : Byte) : Bool := c == 0x20 || c == 0x21 || c == 0x28 || c == 0x29

/-- The codes of micro-operations: format U (R77). -/
def uopCode (c : Byte) : Bool :=
  c == 0x40 || c == 0x41 || c == 0x42 || c == 0x43 || c == 0x44 || c == 0x50 || c == 0x51 ||
    c == 0x60 || c == 0x61 || c == 0x62

/-- A header of format T or Q and the bytes after it. The reserved `arg` of `START`, `LEN_FAIL` and
`RD_FAIL` is ignored (R74). DEDUCED (log 14): `LEN_REQ` and `DONE` have `arg = 0`, and `ERROR` a code
of 3 bits, by R77; another value is no encoding of them. -/
def decodeHeader (code : Byte) (arg : BitVec 64) (rest : List Byte) :
    Except DecodeError (Instr × List Byte) :=
  if code = 0x01 then .ok (.start, rest)
  else if code = 0x10 then .ok (.len arg, rest)
  else if code = 0x11 then .ok (.lenFail, rest)
  else if code = 0x12 then
    if rest.length < arg.toNat then .error .truncated
    else .ok (.data arg (rest.take arg.toNat), rest.drop arg.toNat)
  else if code = 0x13 then .ok (.rdFail, rest)
  else if code = 0x20 then if arg = 0 then .ok (.lenReq, rest) else .error (.reservedField code)
  else if code = 0x21 then .ok (.rdReq arg, rest)
  else if code = 0x28 then if arg = 0 then .ok (.done, rest) else .error (.reservedField code)
  else if code = 0x29 then
    if arg.toNat < 8 then .ok (.error (arg.setWidth 3), rest) else .error (.reservedField code)
  else .error (.unassignedCode code)

/-- A format U word (R76): bits 7:6 are zero; `idx` is zero but for `LDW` (below 16), `SCHED` (16 and
above) and `ROUND` (R80 d). -/
def decodeUop (uop low : Byte) : Except DecodeError Instr :=
  let idx : BitVec 6 := low.setWidth 6
  if 64 ≤ low.toNat then .error (.reservedField uop)
  else if uop = 0x50 then if idx.toNat < 16 then .ok (.ldw idx) else .error (.reservedField uop)
  else if uop = 0x51 then if 16 ≤ idx.toNat then .ok (.sched idx) else .error (.reservedField uop)
  else if uop = 0x61 then .ok (.round idx)
  else if idx ≠ 0 then .error (.reservedField uop)
  else if uop = 0x40 then .ok .mark
  else if uop = 0x41 then .ok .zfill
  else if uop = 0x42 then .ok .suffix
  else if uop = 0x43 then .ok .slice
  else if uop = 0x44 then .ok .synth
  else if uop = 0x60 then .ok .ldv
  else if uop = 0x62 then .ok .ffwd
  else .error (.unassignedCode uop)

/-- The operation at the front of the bytes, and the bytes after it. -/
def decode : List Byte → Except DecodeError (Instr × List Byte)
  | [] => .error .truncated
  | c :: rest =>
    if uopCode c then
      match rest with
      | [] => .error .truncated
      | low :: rest' => (decodeUop c low).map fun i => (i, rest')
    else if incomingCode c || outgoingCode c then
      match rest with
      | b0 :: b1 :: b2 :: b3 :: b4 :: b5 :: b6 :: b7 :: rest' =>
        decodeHeader c (be64 b0 b1 b2 b3 b4 b5 b6 b7) rest'
      | _ => .error .truncated
    else .error (.unassignedCode c)

/-! ### Words numbered as the opcode table numbers them -/

/-- The `k` low bytes of a number, most significant first. -/
def numberBytes (k w : Nat) : List Byte :=
  (List.range k).map fun i => BitVec.ofNat 8 (w / 2 ^ (8 * (k - 1 - i)))

/-- How many payload bytes a header announces: `arg` for `DATA`, else none (R74). -/
def payloadLength : List Byte → Nat
  | c :: b0 :: b1 :: b2 :: b3 :: b4 :: b5 :: b6 :: b7 :: _ =>
    if c = 0x12 then (be64 b0 b1 b2 b3 b4 b5 b6 b7).toNat else 0
  | _ => 0

/-- The bytes of the operation whose bits are `w`: the 72-bit header as one number with `code` in bits
71:64 (spec/30_encoding.md section 3), a format U word as its 16 bits; what the operation has beyond
`nbits` (a payload) is zeros. -/
def tableBytes (nbits w : Nat) : List Byte :=
  let head := numberBytes (nbits / 8) w
  let padded := head ++ List.replicate (9 - head.length) 0
  let full := padded ++ List.replicate (payloadLength padded) 0
  match decode full with
  | .ok (_, rest) => full.take (full.length - rest.length)
  | .error _ => head

/-- What the decoder reads from the operation whose bits are `w`. -/
def decodeTableWord (nbits w : Nat) : Option Instr :=
  match decode (tableBytes nbits w) with
  | .ok (i, _) => some i
  | .error _ => none

end Sys2Proof
end

