-- ==== Sys2Proof/Machine/Ops.lean ====
section
/-! DEFINITION. The named operations every meaning is written in: the chunk buffer (spec/20_memory.md,
`MemRead` and `MemWrite` of spec/00_scope.md R14), emitting on the outgoing interface (R75), entering a
resting phase, the fatal error as one operation (spec/60_exceptions.md R211), and reset (R230). There is no
return from an error (R213). -/

namespace Sys2Proof.Machine

/-- What a meaning answers. -/
abbrev Result := Host.Outcome State Fault Refusal

/-- Go on with a result's next state; a stop stays a stop. -/
def andThen (r : Result) (f : State → Result) : Result :=
  match r with
  | .next s => f s
  | .fault x => .fault x
  | .refused x => .refused x

/-! ### The chunk buffer -/

/-- The canonical form of memory: addresses strictly rising. -/
abbrev Memory.wf (m : Memory) : Prop := m.Pairwise fun x y => x.1 < y.1

/-- The byte at an offset; none where nothing has been written (log 12). -/
def readByte : Memory → Nat → Option Byte
  | [], _ => none
  | (a, b) :: m, k => if a = k then some b else readByte m k

/-- A string of bytes as cells from an offset upwards, in index order. -/
def cellsFrom (k : Nat) : List Byte → Memory
  | [] => []
  | b :: bs => (k, b) :: cellsFrom (k + 1) bs

/-- Memory with a string of bytes stored at `k, k+1, …`. -/
def writeBytes (m : Memory) (k : Nat) (bs : List Byte) : Memory :=
  m.filter (fun c => decide (c.1 < k)) ++ cellsFrom k bs ++
    m.filter (fun c => decide (k + bs.length ≤ c.1))

/-- `MemWrite(k, n, s)` (R14): defined only inside the buffer. DEDUCED (log 13): outside it, a fault. -/
def memWrite (k : Nat) (bs : List Byte) (s : State) : Result :=
  if k + bs.length ≤ s.cfg.capacity then .next { s with cbuf := writeBytes s.cbuf k bs }
  else .fault (.outsideBuffer k)

/-- The 64 bytes of `cbuf` from an offset (R114), where they are all written. -/
def blockAt (m : Memory) (k : Nat) : Vector Byte 64 :=
  Vector.ofFn fun i => (readByte m (k + i.val)).getD 0

/-- The first of the 64 offsets from `k` that nothing has written. -/
def firstUnwritten (m : Memory) (k : Nat) : Option Nat :=
  ((List.range 64).map (k + ·)).find? fun a => (readByte m a).isNone

/-- `blk <- MemRead(k, 64)` (R14, R114): defined only inside the buffer (log 13), and a read of an
unwritten byte faults (R38; log 12). -/
def memReadBlock (k : Nat) (s : State) : Result :=
  if k + 64 ≤ s.cfg.capacity then
    match firstUnwritten s.cbuf k with
    | some a => .fault (.unwrittenByte a)
    | none => .next { s with blk := blockAt s.cbuf k }
  else .fault (.outsideBuffer k)

/-! ### Phases, notifications, errors -/

/-- Put a format Q header on the outgoing interface (R14 `emit`, R75). -/
def emit (header : BitVec 72) (s : State) : State := { s with outbox := s.outbox ++ [header] }

/-- The header of `LEN_REQ` (R77, R105): `arg = 0`. -/
def lenReqHeader : BitVec 72 := headerBits 0x20 0

/-- The header of `RD_REQ` (R77, R106): `arg` is the count asked for. -/
def rdReqHeader (c : BitVec 64) : BitVec 72 := headerBits 0x21 c

/-- The header of `DONE` (R77, R107): `arg = 0`. -/
def doneHeader : BitVec 72 := headerBits 0x28 0

/-- The header of `ERROR e` (R77, R108): `arg` is the code, zero-extended (R78). -/
def errorHeader (e : BitVec 3) : BitVec 72 := headerBits 0x29 (e.setWidth 64)

/-- What the engine emits on entering a phase (R77, "issued when"): nothing on entering one that is not of the
four. -/
def entryHeaders (p : Phase) (s : State) : List (BitVec 72) :=
  match p with
  | .probe => [lenReqHeader]
  | .fill => [rdReqHeader (BitVec.ofNat 64 s.cfg.capacity)]
  | .done => [doneHeader]
  | .failed => [errorHeader s.err]
  | .idle => []
  | .plan => []
  | .slice => []
  | .expand => []
  | .compress => []
  | .synth => []

/-- Enter a resting phase: the phase, and with it its status output (R33), and the request or notification that
belongs to it are one event (R75, R117: "emit"). DESIGN CHOICE (log 5): the don't-care `j` and `t` keep their
values. -/
def enterResting (p : Phase) (s : State) : State :=
  { s with phase := p, pos := .first, outbox := s.outbox ++ entryHeaders p s }

/-- The kinds of fatal error (R200). -/
inductive ErrorKind where
  | sizeProbeFail | oversize | readFail | shortRead | underrun | overrun | countRange
deriving DecidableEq, Repr

/-- The code of an error kind (R200). -/
def errorCode : ErrorKind → BitVec 3
  | .sizeProbeFail => 1
  | .oversize => 2
  | .readFail => 3
  | .shortRead => 4
  | .underrun => 5
  | .overrun => 6
  | .countRange => 7

/-- `raise E` (R211): `err` takes the code, the phase becomes FAILED, `ERROR` with that code is emitted, and
nothing else changes (R212). -/
def raiseError (e : ErrorKind) (s : State) : State :=
  enterResting .failed { s with err := errorCode e }

/-- The reset event (R230): every piece of the engine's state at its value of R38, at once. DESIGN CHOICE
(log 10): the event is taken, and the two interfaces keep what was presented and emitted. -/
def applyReset (s : State) : State :=
  { State.resetOf s.cfg with inbox := s.inbox, outbox := s.outbox }

end Sys2Proof.Machine
end

