-- ==== Sys2Proof/Machine/Compression.lean ====
section
/-! DEFINITION. The Compression Core (spec/42_compression_core.md). -/

namespace Sys2Proof.Machine

/-- `Σ0` (R160). -/
def bigSigma0 (x : Word) : Word := rotr x 2 ^^^ rotr x 13 ^^^ rotr x 22

/-- `Σ1` (R161). -/
def bigSigma1 (x : Word) : Word := rotr x 6 ^^^ rotr x 11 ^^^ rotr x 25

/-- `Ch` (R162). -/
def choose (x y z : Word) : Word := (x &&& y) ^^^ (~~~x &&& z)

/-- `Maj` (R163). -/
def majority (x y z : Word) : Word := (x &&& y) ^^^ (x &&& z) ^^^ (y &&& z)

/-- `T1` of a round (R165): from the working variables, the round constant and the schedule word. -/
def roundT1 (v : Vector Word 8) (k w : Word) : Word :=
  add32 (add32 (add32 (add32 v[7] (bigSigma1 v[4])) k) w) (choose v[4] v[5] v[6])

/-- `T2` of a round (R165). -/
def roundT2 (v : Vector Word 8) : Word := add32 (bigSigma0 v[0]) (majority v[0] v[1] v[2])

/-- The working variables after a round (R165), all eight written at once. -/
def roundOf (v : Vector Word 8) (k w : Word) : Vector Word 8 :=
  #v[add32 (roundT1 v k w) (roundT2 v), v[0], v[1], v[2], add32 v[3] (roundT1 v k w), v[4], v[5], v[6]]

/-- The hash state after the feed-forward (R166). -/
def feedForward (h v : Vector Word 8) : Vector Word 8 :=
  #v[add32 h[0] v[0], add32 h[1] v[1], add32 h[2] v[2], add32 h[3] v[3],
    add32 h[4] v[4], add32 h[5] v[5], add32 h[6] v[6], add32 h[7] v[7]]

/-- `LDV` (R164). -/
def execLdv (s : State) : Result := .next { s with v := s.h }

/-- `ROUND i` (R165). -/
def execRound (i : BitVec 6) (s : State) : Result :=
  .next { s with v := roundOf s.v (scheduleWord romK i.toNat) (scheduleWord s.w i.toNat) }

/-- `FFWD` (R166). -/
def execFfwd (s : State) : Result := .next { s with h := feedForward s.h s.v }

end Sys2Proof.Machine
end

