-- ==== Sys2Proof/Machine/Expander.lean ====
section
/-! DEFINITION. The Message-Schedule Expander (spec/41_schedule_expander.md). -/

namespace Sys2Proof.Machine

/-- `σ0` (R140). -/
def sigma0 (x : Word) : Word := rotr x 7 ^^^ rotr x 18 ^^^ shr x 3

/-- `σ1` (R141). -/
def sigma1 (x : Word) : Word := rotr x 17 ^^^ rotr x 19 ^^^ shr x 10

/-- The word `LDW t` loads (R142). -/
def loadedWord (blk : Vector Byte 64) (t : Nat) : Word :=
  be32 (blockByte blk t 0) (blockByte blk t 1) (blockByte blk t 2) (blockByte blk t 3)

/-- The word `SCHED t` computes (R143). -/
def recurrenceWord (w : Vector Word 64) (t : Nat) : Word :=
  add32 (add32 (add32 (scheduleWord w (t - 16)) (sigma0 (scheduleWord w (t - 15))))
    (scheduleWord w (t - 7))) (sigma1 (scheduleWord w (t - 2)))

/-- `LDW t` (R142), for `t ≤ 15` (R80 d). -/
def execLdw (t : BitVec 6) (s : State) : Result :=
  if t.toNat < 16 then .next { s with w := s.w.set t.toNat (loadedWord s.blk t.toNat) t.isLt }
  else .refused (.noMeaning "LDW")

/-- `SCHED t` (R143), for `16 ≤ t` (R80 d). -/
def execSched (t : BitVec 6) (s : State) : Result :=
  if 16 ≤ t.toNat then .next { s with w := s.w.set t.toNat (recurrenceWord s.w t.toNat) t.isLt }
  else .refused (.noMeaning "SCHED")

end Sys2Proof.Machine
end

