-- ==== Sys2Proof/Machine/Notifications.lean ====
section
/-! DEFINITION. The four outgoing transactions (spec/40_buffer_manager.md section 2): each emits its format Q
header (R75, R77) and "changes no engine state by itself". The engine emits the same headers inside the
transaction that enters the phase (`enterResting`). -/

namespace Sys2Proof.Machine

/-- `LEN_REQ` (R105): `arg = 0`. -/
def execLenReq (s : State) : Result := .next (emit lenReqHeader s)

/-- `RD_REQ` (R106): `arg` is the capacity the engine asks with. -/
def execRdReq (c : BitVec 64) (s : State) : Result := .next (emit (rdReqHeader c) s)

/-- `DONE` (R107): `arg = 0`. -/
def execDone (s : State) : Result := .next (emit doneHeader s)

/-- `ERROR e` (R108): `arg` is the code, zero-extended (R78). -/
def execError (e : BitVec 3) (s : State) : Result := .next (emit (errorHeader e) s)

end Sys2Proof.Machine
end

