-- ==== Sys2Proof/Machine/Flags.lean ====
section
/-! DEFINITION. The flags. There are no condition codes (spec/10_state.md R35): every flag-like bit is
`marker_emitted` (R29), `synth_pending` (R30) or a status output, a function of the state (R33). -/

namespace Sys2Proof.Machine

/-- The 4-bit value of a phase (R31). -/
def phaseCode : Phase → BitVec 4
  | .idle => 0
  | .probe => 1
  | .fill => 2
  | .plan => 3
  | .slice => 4
  | .expand => 5
  | .compress => 6
  | .synth => 7
  | .done => 8
  | .failed => 9

/-- The phases in which the engine waits for a transaction (R31). -/
def restingPhase : Phase → Bool
  | .idle => true
  | .probe => true
  | .fill => true
  | .done => true
  | .failed => true
  | _ => false

/-- The phases that accept `START` (R77, R100). -/
def acceptsStart (p : Phase) : Bool := p == .idle || p == .done || p == .failed

/-- `marker_emitted <- 1` (R111, R115). -/
def setMarker (s : State) : State := { s with markerEmitted := true }

/-- `marker_emitted <- 0` (R101). -/
def clearMarker (s : State) : State := { s with markerEmitted := false }

/-! ### Status outputs (R33), as the host reads them at a transaction boundary -/

/-- `phase_out`. -/
def phaseOut (s : State) : BitVec 4 := phaseCode s.phase

/-- `err_out`. -/
def errOut (s : State) : BitVec 3 := s.err

/-- `digest_valid`, also called `done`. -/
def digestValid (s : State) : Bool := s.phase == .done

/-- `error`. -/
def errorOut (s : State) : Bool := s.phase == .failed

/-- `len_req`. -/
def lenReqOut (s : State) : Bool := s.phase == .probe

/-- `rd_req`. -/
def rdReqOut (s : State) : Bool := s.phase == .fill

end Sys2Proof.Machine
end

