-- ==== Sys2Proof/Machine/Padding.lean ====
section
/-! DEFINITION. The padding and slicing micro-operations (spec/40_buffer_manager.md section 4). -/

namespace Sys2Proof.Machine

/-- `MARK` (R111): the marker byte `0x80`, one past the last real byte. -/
def execMark (s : State) : Result :=
  andThen (memWrite (markOffset s) [0x80] s) fun s' =>
    .next (setMarker { s' with used := s.bytesRead + 1 })

/-- `ZFILL` (R112), with the count the plan gives it (R110). -/
def execZfill (s : State) : Result :=
  memWrite (zfillOffset s) (List.replicate (zfillCount s) 0) s

/-- `SUFFIX` (R113). -/
def execSuffix (s : State) : Result := memWrite (suffixOffset s) s.lenSuffix.toList s

/-- `SLICE` (R114): the block of the sequencer's register `j`. -/
def execSlice (s : State) : Result := memReadBlock (sliceOffset s) s

/-- The synthetic block (R115): the marker unless it has been emitted, zeros, the length suffix. -/
def syntheticBlock (marked : Bool) (suffix : Vector Byte 8) : Vector Byte 64 :=
  Vector.ofFn fun k =>
    if k.val = 0 then (if marked then 0x00 else 0x80)
    else if k.val < 56 then 0x00
    else suffix[k.val - 56]?.getD 0

/-- `SYNTH` (R115). -/
def execSynth (s : State) : Result :=
  .next (setMarker { s with
    blk := syntheticBlock s.markerEmitted s.lenSuffix
    synthPending := false })

end Sys2Proof.Machine
end

