-- ==== Sys2Proof/Machine/Transactions.lean ====
section
/-! DEFINITION. The five incoming transactions (spec/40_buffer_manager.md section 1) and the full-chunk
plan (R109). A transaction in a phase that does not accept it is refused (spec/30_encoding.md R80 b). -/

namespace Sys2Proof.Machine

/-- `START` (R100). -/
def execStart (s : State) : Result :=
  if acceptsStart s.phase then .next (enterResting .probe { s with err := 0, h := romIV })
  else .refused (.notAccepted s.phase)

/-- `LEN L` (R101): `L ≥ MAX_LEN` is OVERSIZE (R202). -/
def execLen (l : BitVec 64) (s : State) : Result :=
  if s.phase = .probe then
    if s.cfg.maxLen ≤ l.toNat then .next (raiseError .oversize s)
    else .next (enterResting .fill (clearMarker
      { s with bytesRemaining := l, lenSuffix := bytesBE64 (8 * l) }))
  else .refused (.notAccepted s.phase)

/-- `LEN_FAIL` (R102, R201). -/
def execLenFail (s : State) : Result :=
  if s.phase = .probe then .next (raiseError .sizeProbeFail s)
  else .refused (.notAccepted s.phase)

/-- Go to the first block of the chunk, (SLICE, 0, -) of R117. -/
def startSlicing (s : State) : State := { s with phase := .slice, j := 0, pos := .first }

/-- The full-chunk plan (R109). -/
def planFullChunk (s : State) : State :=
  { s with nblk := s.cfg.capacity / 64, synthPending := s.bytesRemaining == 0 }

/-- Lines 7 to 9 of `DATA` (R103) and the row of R117 that follows: `n = C` plans the full chunk, `n < C`
goes to PLAN. -/
def planChunk (n : BitVec 64) (s : State) : State :=
  let s := { s with bytesRead := n.toNat, bytesRemaining := s.bytesRemaining - n }
  if n.toNat = s.cfg.capacity then startSlicing (planFullChunk s)
  else { s with phase := .plan, pos := .first }

/-- Lines 1 to 5 of `DATA` (R103), in that order: the error that the first applying check raises, where one
does. -/
def dataError (n : BitVec 64) (s : State) : Option ErrorKind :=
  if s.cfg.capacity < n.toNat then some .countRange
  else if s.bytesRemaining.toNat < n.toNat then some .overrun
  else if n = 0 && s.markerEmitted then none
  else if n = 0 && s.bytesRemaining != 0 then some .underrun
  else if n.toNat < s.cfg.capacity && s.bytesRemaining - n != 0 then some .shortRead
  else none

/-- `DATA n p` (R103): the checks, the stop of line 3, and the chunk of lines 6 to 9. The blocks of lines 10
to 12 are the sequencer's (R117). -/
def execData (n : BitVec 64) (payload : List Byte) (s : State) : Result :=
  if payload.length = n.toNat then
    if s.phase = .fill then
      match dataError n s with
      | some e => .next (raiseError e s)
      | none =>
        if n = 0 && s.markerEmitted then .next (enterResting .done s)
        else andThen (memWrite 0 payload s) fun s => .next (planChunk n s)
    else .refused (.notAccepted s.phase)
  else .refused (.noMeaning "DATA")

/-- `RD_FAIL` (R104, R203). -/
def execRdFail (s : State) : Result :=
  if s.phase = .fill then .next (raiseError .readFail s)
  else .refused (.notAccepted s.phase)

end Sys2Proof.Machine
end

