-- ==== Sys2Proof/Machine/Dispatch.lean ====
section
/-! DEFINITION. One arm per operation of the map (spec/30_encoding.md R77). -/

namespace Sys2Proof.Machine

def exec (i : Instr) (s : State) : Host.Outcome State Fault Refusal :=
  match i with
  | .start => Sys2Proof.Machine.execStart s
  | .len l => Sys2Proof.Machine.execLen l s
  | .lenFail => Sys2Proof.Machine.execLenFail s
  | .data n payload => Sys2Proof.Machine.execData n payload s
  | .rdFail => Sys2Proof.Machine.execRdFail s
  | .lenReq => Sys2Proof.Machine.execLenReq s
  | .rdReq c => Sys2Proof.Machine.execRdReq c s
  | .done => Sys2Proof.Machine.execDone s
  | .error e => Sys2Proof.Machine.execError e s
  | .mark => Sys2Proof.Machine.execMark s
  | .zfill => Sys2Proof.Machine.execZfill s
  | .suffix => Sys2Proof.Machine.execSuffix s
  | .slice => Sys2Proof.Machine.execSlice s
  | .synth => Sys2Proof.Machine.execSynth s
  | .ldw t => Sys2Proof.Machine.execLdw t s
  | .sched t => Sys2Proof.Machine.execSched t s
  | .ldv => Sys2Proof.Machine.execLdv s
  | .round k => Sys2Proof.Machine.execRound k s
  | .ffwd => Sys2Proof.Machine.execFfwd s

end Sys2Proof.Machine
end

