-- ==== Sys2Proof/Machine/Sequencer.lean ====
section
/-! DEFINITION. The sequencer (spec/40_buffer_manager.md R117): which operation the engine issues in each
sequencer state, and where it goes after the operation. DESIGN CHOICE (log 4): one operation a step; `pos`
says which operation of the table's row is next. -/

namespace Sys2Proof.Machine

/-- The bytes of the operation the sequencer issues (R76, R77, R117): a micro-operation in a transient
phase. Empty where the engine waits for a transaction: every state of a run in a resting phase. A request or
notification is issued only where one has been placed from outside (log 16); in a run it is emitted by
`enterResting`, inside the step that enters its phase (R75). -/
def issue (s : State) : List Byte :=
  match s.phase with
  | .idle => []
  | .probe => if s.pos = .first then [] else headerBytes 0x20 0
  | .fill => if s.pos = .first then [] else headerBytes 0x21 (BitVec.ofNat 64 s.cfg.capacity)
  | .done => if s.pos = .first then [] else headerBytes 0x28 0
  | .failed => if s.pos = .first then [] else headerBytes 0x29 (s.err.setWidth 64)
  | .plan =>
    match s.pos with
    | .first => uopBytes 0x40 0
    | .second => uopBytes 0x41 0
    | .third => uopBytes 0x42 0
  | .slice => uopBytes 0x43 0
  | .synth => uopBytes 0x44 0
  | .expand =>
    if s.pos = .first then
      if s.t.toNat < 16 then uopBytes 0x50 s.t else uopBytes 0x51 s.t
    else uopBytes 0x60 0
  | .compress => if s.pos = .first then uopBytes 0x61 s.t else uopBytes 0x62 0

/-- To (EXPAND, j, 0). -/
def startExpand (s : State) : State := { s with phase := .expand, t := 0, pos := .first }

/-- After `ZFILL` (R110): where the suffix does not fit, the plan is complete and a synthetic block
follows; else `SUFFIX` is next. -/
def afterZfill (s : State) : State :=
  if suffixOverflows s then
    startSlicing { s with nblk := s.cfg.capacity / 64, synthPending := true }
  else { s with pos := .third }

/-- After `SUFFIX` (R110): the plan is complete and no synthetic block follows. -/
def afterSuffix (s : State) : State :=
  startSlicing { s with nblk := fittingBlocks s, synthPending := false }

/-- After `LDW t` or `SCHED t`: the next word, or `LDV` after word 63. -/
def afterScheduleWord (s : State) : State :=
  if s.t.toNat < 63 then { s with t := s.t + 1, pos := .first } else { s with pos := .second }

/-- After `ROUND t`: the next round, or `FFWD` after round 63. -/
def afterRound (s : State) : State :=
  if s.t.toNat < 63 then { s with t := s.t + 1, pos := .first } else { s with pos := .second }

/-- After `FFWD`: the three rows of R117 that leave (COMPRESS, j, 63). -/
def afterBlock (s : State) : State :=
  if s.j + 1 < s.nblk then { s with phase := .slice, j := s.j + 1, pos := .first }
  else if s.j + 1 = s.nblk && s.synthPending then
    { s with phase := .synth, j := s.nblk, pos := .first }
  else enterResting .fill s

/-- Where the sequencer goes after an operation (R117). A transaction sets the sequencer state itself. -/
def advance (i : Instr) (s : State) : State :=
  match i with
  | .start => s
  | .len _ => s
  | .lenFail => s
  | .data _ _ => s
  | .rdFail => s
  | .lenReq => { s with pos := .first }
  | .rdReq _ => { s with pos := .first }
  | .done => { s with pos := .first }
  | .error _ => { s with pos := .first }
  | .mark => { s with pos := .second }
  | .zfill => afterZfill s
  | .suffix => afterSuffix s
  | .slice => startExpand s
  | .synth => startExpand s
  | .ldw _ => afterScheduleWord s
  | .sched _ => afterScheduleWord s
  | .ldv => { s with phase := .compress, t := 0, pos := .first }
  | .round _ => afterRound s
  | .ffwd => afterBlock s

/-- The sequencer moves on where the operation has a next state. -/
def sequenced (i : Instr) (r : Result) : Result := andThen r fun s => .next (advance i s)

end Sys2Proof.Machine
end

