-- ==== Sys2Proof/Machine/Fetch.lean ====
section
/-! DEFINITION. Where the next operation comes from: the reset input (spec/70_reset_and_hazards.md R230), the
sequencer (spec/40_buffer_manager.md R117), or the incoming interface (spec/30_encoding.md R74, R80). -/

namespace Sys2Proof.Machine

/-- What a step does next. -/
inductive Fetch where
  /-- Take the reset event. -/
  | reset
  /-- Nothing is due and no whole transaction has arrived: wait (R17, R60). -/
  | wait
  /-- Run this operation on this state. -/
  | run (i : Instr) (s : State)
  /-- Refuse. -/
  | stop (r : Refusal)
deriving DecidableEq, Repr

/-- The next transaction on the incoming interface, taken off it. An unassigned code, and a code of the other
formats, is not accepted (R80 a, d); a transaction of which bytes are still to come is waited for (log 7). -/
def fetchIncoming (s : State) : Fetch :=
  match s.inbox with
  | [] => .wait
  | c :: _ =>
    if incomingCode c then
      match decode s.inbox with
      | .ok (i, rest) => .run i { s with inbox := rest }
      | .error _ => .wait
    else .stop (.unassignedCode c)

/-- The operation the sequencer issues, decoded from its bytes; the incoming interface where it issues
none. -/
def fetchIssued (s : State) : Fetch :=
  match issue s with
  | [] => fetchIncoming s
  | c :: rest =>
    match decode (c :: rest) with
    | .ok (i, _) => .run i s
    | .error _ => .stop (.unassignedCode c)

/-- The next thing a step does: reset before anything else (R230). -/
def fetch (s : State) : Fetch := if s.resetIn then .reset else fetchIssued s

/-- The sequencer state (and the register an operation's word is made from) in which the engine runs the
operation `i` next, with `bytes` on the incoming interface where `i` comes from there (log 16). -/
def selectOp (i : Instr) (bytes : List Byte) (s : State) : State :=
  match i with
  | .start =>
    { s with inbox := bytes, phase := if acceptsStart s.phase then s.phase else .idle, pos := .first }
  | .len _ => { s with inbox := bytes, phase := .probe, pos := .first }
  | .lenFail => { s with inbox := bytes, phase := .probe, pos := .first }
  | .data _ _ => { s with inbox := bytes, phase := .fill, pos := .first }
  | .rdFail => { s with inbox := bytes, phase := .fill, pos := .first }
  | .lenReq => { s with phase := .probe, pos := .second }
  | .rdReq c =>
    { s with cfg := { s.cfg with capacity := c.toNat }, phase := .fill, pos := .second }
  | .done => { s with phase := .done, pos := .second }
  | .error e => { s with err := e, phase := .failed, pos := .second }
  | .mark => { s with phase := .plan, pos := .first }
  | .zfill => { s with phase := .plan, pos := .second }
  | .suffix => { s with phase := .plan, pos := .third }
  | .slice => { s with phase := .slice, pos := .first }
  | .synth => { s with phase := .synth, pos := .first }
  | .ldw t => { s with phase := .expand, t := t, pos := .first }
  | .sched t => { s with phase := .expand, t := t, pos := .first }
  | .ldv => { s with phase := .expand, t := 63, pos := .second }
  | .round k => { s with phase := .compress, t := k, pos := .first }
  | .ffwd => { s with phase := .compress, t := 63, pos := .second }

/-- The state with the operation whose bits are `w` as the next one; bytes that are no operation are put on
the incoming interface of an engine that waits there. -/
def placeWord (s : State) (nbits w : Nat) : State :=
  let s := { s with resetIn := false }
  match decodeTableWord nbits w with
  | some i => selectOp i (tableBytes nbits w) s
  | none => { s with inbox := tableBytes nbits w, pos := .first,
                     phase := if restingPhase s.phase then s.phase else .idle }

end Sys2Proof.Machine
end

