-- ==== Sys2Proof/Machine/Step.lean ====
section
/-! DEFINITION. One step: one operation of the engine, or the reset event, or waiting. -/

namespace Sys2Proof.Machine

/-- One step (spec/00_scope.md R16, spec/40_buffer_manager.md R117). -/
def step (s : State) : Host.Outcome State Fault Refusal :=
  match fetch s with
  | .reset => .next (applyReset s)
  | .wait => .next s
  | .run i s' => sequenced i (exec i s')
  | .stop r => .refused r

/-- The state with a given operation as the next one to run (log 16). -/
def State.withFetchWord (s : State) (nbits w : Nat) : State := placeWord s nbits w

end Sys2Proof.Machine
end

