-- ==== Sys2Proof/Machine/Digest.lean ====
section
/-! DEFINITION. The digest port and its hexadecimal rendering (spec/43_digest_output.md). -/

namespace Sys2Proof.Machine

/-- `H[0] ‖ H[1] ‖ … ‖ H[7]` (R73, R180): `H[0]` in bits 255:224. -/
def digestBits (h : Vector Word 8) : BitVec 256 :=
  h[0] ++ h[1] ++ h[2] ++ h[3] ++ h[4] ++ h[5] ++ h[6] ++ h[7]

/-- The digest port (R180): no value outside DONE (R181). -/
def digest (s : State) : Option (BitVec 256) :=
  if digestValid s then some (digestBits s.h) else none

/-- The digest as 32 bytes, most significant first (R180). -/
def digestBytes (h : Vector Word 8) : List Byte := h.toList.flatMap bytesBE32

/-- The lowercase digit of a nibble (R182). -/
def hexDigit (n : BitVec 4) : Char :=
  ['0', '1', '2', '3', '4', '5', '6', '7', '8', '9', 'a', 'b', 'c', 'd', 'e', 'f'].getD n.toNat '0'

/-- A byte as two digits, most significant nibble first (R182). -/
def hexByte (b : Byte) : List Char := [hexDigit (b.extractLsb' 4 4), hexDigit (b.extractLsb' 0 4)]

/-- `HEX(H)` (R182), on the host's side of the port. -/
def hexDigest (h : Vector Word 8) : List Char := (digestBytes h).flatMap hexByte

end Sys2Proof.Machine
end

