-- ==== Sys2Proof/Machine/Pseudo.lean ====
section
/-! DEFINITION. The pseudo-operations `EXPAND`, `COMPRESS`, `BLOCK` (spec/30_encoding.md R83): as sequences of
micro-operations, and as the functions the rules R144, R167 and R36 define. -/

namespace Sys2Proof.Machine

/-! ### As sequences -/

/-- `EXPAND` (R83, R144). -/
def expandOps : List Instr :=
  (List.range 16).map (fun t => Instr.ldw (BitVec.ofNat 6 t)) ++
    (List.range' 16 48).map (fun t => Instr.sched (BitVec.ofNat 6 t))

/-- `COMPRESS` (R83, R167). -/
def compressOps : List Instr :=
  [Instr.ldv] ++ (List.range 64).map (fun i => Instr.round (BitVec.ofNat 6 i)) ++ [Instr.ffwd]

/-- `BLOCK` (R83, R116). -/
def blockOps : List Instr := expandOps ++ compressOps

/-- Operations one after another, without the sequencer. -/
def runOps : List Instr → State → Result
  | [], s => .next s
  | i :: is, s => andThen (exec i s) (runOps is)

/-! ### As functions -/

/-- The next schedule word after the words `ws` (R144): loaded for the first 16, else by the recurrence. -/
def nextScheduleWord (blk : Vector Byte 64) (ws : List Word) : Word :=
  if ws.length < 16 then loadedWord blk ws.length
  else ws.getD (ws.length - 16) 0 + sigma0 (ws.getD (ws.length - 15) 0) +
    ws.getD (ws.length - 7) 0 + sigma1 (ws.getD (ws.length - 2) 0)

/-- The first `n` words of the schedule of a block (R144). -/
def scheduleList (blk : Vector Byte 64) : Nat → List Word
  | 0 => []
  | n + 1 => scheduleList blk n ++ [nextScheduleWord blk (scheduleList blk n)]

/-- `EXPAND(blk)` (R144). -/
def expandBlock (blk : Vector Byte 64) : Vector Word 64 :=
  Vector.ofFn fun t => (scheduleList blk 64).getD t.val 0

/-- `v_n` of R167: the working variables after `ROUND 0` to `ROUND n-1`. -/
def roundsOf (w : Vector Word 64) (v : Vector Word 8) : Nat → Vector Word 8
  | 0 => v
  | n + 1 => roundOf (roundsOf w v n) (scheduleWord romK n) (scheduleWord w n)

/-- `COMPRESS(W, H)` (R167). -/
def compressHash (w : Vector Word 64) (h : Vector Word 8) : Vector Word 8 :=
  feedForward h (roundsOf w h 64)

/-- The hash state after one block (R116). -/
def hashBlock (h : Vector Word 8) (blk : Vector Byte 64) : Vector Word 8 :=
  compressHash (expandBlock blk) h

/-- `fold(B_1 .. B_k)` of R36. -/
def hashBlocks (bs : List (Vector Byte 64)) : Vector Word 8 := bs.foldl hashBlock romIV

end Sys2Proof.Machine
end

