-- ==== Sys2Proof/Machine/Source.lean ====
section
/-! DEFINITION. The padded message (spec/30_encoding.md R71), the conforming byte source
(spec/40_buffer_manager.md R118) and the transactions of a whole run (R121). The engine itself is put before
any source: what arrives is any bytes of `State.inbox`. -/

namespace Sys2Proof.Machine

/-- `z = (55 - L) mod 64` (R71). -/
def paddingZeros (l : Nat) : Nat := (119 - l % 64) % 64

/-- `PAD(M)` (R71). -/
def padMessage (m : List Byte) : List Byte :=
  m ++ [0x80] ++ List.replicate (paddingZeros m.length) 0 ++
    (bytesBE64 (8 * BitVec.ofNat 64 m.length)).toList

/-- The 64-byte blocks of a string of bytes, in order (R71). -/
def blocksOf (bs : List Byte) : List (Vector Byte 64) :=
  (List.range (bs.length / 64)).map fun i => Vector.ofFn fun k => bs.getD (64 * i + k.val) 0

/-- The hash of a message: the blocks of `PAD(M)` folded from `IV` (R36, R120). -/
def messageHash (m : List Byte) : Vector Word 8 := hashBlocks (blocksOf (padMessage m))

/-- A byte source (R118): the message it holds and its position. -/
structure ByteSource where
  message : List Byte
  position : Nat
deriving DecidableEq, Repr

/-- The conforming answer to `LEN_REQ` (R118 a). -/
def lengthAnswer (src : ByteSource) : Instr := .len (BitVec.ofNat 64 src.message.length)

/-- The count of a conforming answer to `RD_REQ c` (R118 b). -/
def readCount (c : Nat) (src : ByteSource) : Nat := min c (src.message.length - src.position)

/-- The conforming answer to `RD_REQ c` (R118 b). -/
def readAnswer (c : Nat) (src : ByteSource) : Instr :=
  .data (BitVec.ofNat 64 (readCount c src))
    ((src.message.drop src.position).take (readCount c src))

/-- The source after that answer (R118 b). -/
def afterRead (c : Nat) (src : ByteSource) : ByteSource :=
  { src with position := src.position + readCount c src }

/-- Its answers to `k` read requests. -/
def readAnswers (c : Nat) : Nat → ByteSource → List Instr
  | 0, _ => []
  | k + 1, src => readAnswer c src :: readAnswers c k (afterRead c src)

/-- How many read requests a run makes (R121). -/
def readRequests (c l : Nat) : Nat := if l % c ≠ 0 ∨ l = 0 then l / c + 2 else l / c + 1

/-- The incoming transactions of `HASH(M, C)` (R83, R121). -/
def hashTrace (c : Nat) (m : List Byte) : List Instr :=
  [.start, lengthAnswer ⟨m, 0⟩] ++ readAnswers c (readRequests c m.length) ⟨m, 0⟩

/-- The outgoing transactions of `HASH(M, C)` (R121). -/
def hashOutbox (c : Nat) (m : List Byte) : List (BitVec 72) :=
  [headerBits 0x20 0] ++
    List.replicate (readRequests c m.length) (headerBits 0x21 (BitVec.ofNat 64 c)) ++
    [headerBits 0x28 0]

/-- A trace as the bytes on the incoming interface (R74). -/
def traceBytes (is : List Instr) : List Byte := is.flatMap encode

end Sys2Proof.Machine
end

