-- ==== Sys2Proof/Safety.lean ====
section
/-! DEFINITION. What holds in every run: the invariant that rules out the states no run reaches
(spec/10_state.md R27 to R31, spec/20_memory.md R64, spec/40_buffer_manager.md R110, R117), and the boundaries
between transactions (spec/00_scope.md R16). -/

namespace Sys2Proof.Machine

/-- The first `n` bytes of the chunk buffer have been written. -/
abbrev Written (m : Memory) (n : Nat) : Prop := ∀ k < n, (readByte m k).isSome = true

/-- The phases in which the blocks of a chunk are processed (R117). -/
def blockPhase : Phase → Bool
  | .slice => true
  | .expand => true
  | .compress => true
  | .synth => true
  | _ => false

/-- Where in its row of R117 each phase can be. -/
def posLegal (s : State) : Bool :=
  match s.phase with
  | .idle => s.pos == .first
  | .probe => s.pos == .first
  | .fill => s.pos == .first
  | .plan => true
  | .slice => s.pos == .first
  | .expand => s.pos == .first || (s.pos == .second && s.t == 63)
  | .compress => s.pos == .first || (s.pos == .second && s.t == 63)
  | .synth => s.pos == .first
  | .done => s.pos == .first
  | .failed => s.pos == .first

/-- The counts never exceed the chunk (R30, R31). -/
abbrev CountInv (s : State) : Prop :=
  s.bytesRead ≤ s.cfg.capacity ∧ s.used ≤ s.cfg.capacity ∧ s.nblk ≤ s.cfg.capacity / 64 ∧
  s.j ≤ s.cfg.capacity / 64

/-- The padding plan of a partial chunk is under way (R110): the chunk is the last, and what has been laid
out is written. -/
abbrev PlanInv (s : State) : Prop :=
  s.bytesRead < s.cfg.capacity ∧ s.bytesRemaining = 0 ∧ Written s.cbuf s.bytesRead ∧
  (s.pos ≠ .first → s.markerEmitted = true ∧ s.used = s.bytesRead + 1 ∧ Written s.cbuf s.used) ∧
  (s.pos = .third → 8 ≤ s.cfg.capacity - s.used ∧ Written s.cbuf (s.used + padZeros s.used))

/-- The blocks of a chunk are being processed (R30, R31, R117): every block that will be sliced is written,
and `j = nblk` marks the synthetic block. -/
abbrev BlockInv (s : State) : Prop :=
  1 ≤ s.nblk ∧ Written s.cbuf (64 * s.nblk) ∧
  s.j ≤ s.nblk ∧ (s.phase = .slice → s.j < s.nblk) ∧
  (s.phase = .synth → s.j = s.nblk ∧ s.synthPending = true) ∧
  (s.j = s.nblk → s.phase ≠ .synth → s.synthPending = false) ∧
  (s.synthPending = true → s.bytesRemaining = 0) ∧
  (s.markerEmitted = true → s.bytesRemaining = 0)

/-- Between the chunks of a run (R27, R29): what remains is below `MAX_LEN`, and nothing remains once the
padding has been processed. -/
abbrev FillInv (s : State) : Prop :=
  s.bytesRemaining.toNat < s.cfg.maxLen ∧ (s.markerEmitted = true → s.bytesRemaining = 0)

/-- The invariant of the engine. -/
structure Inv (s : State) : Prop where
  /-- The instance is one of the spec's (R5, R6). -/
  config : s.cfg.Valid
  /-- The chunk buffer keeps its canonical form. -/
  memory : Memory.wf s.cbuf
  /-- Nothing is written outside the chunk buffer (R64). -/
  inside : ∀ c ∈ s.cbuf, c.1 < s.cfg.capacity
  /-- The sequencer is at an operation of its row (R117). -/
  position : posLegal s = true
  /-- Every count fits its register (R30, R31). -/
  counts : CountInv s
  /-- While a partial chunk is padded. -/
  plan : s.phase = .plan → PlanInv s
  /-- While blocks are processed. -/
  block : blockPhase s.phase = true → BlockInv s
  /-- While a chunk is awaited. -/
  fill : s.phase = .fill → FillInv s
  /-- `bytes_remaining` is below `MAX_LEN` while a chunk is processed (R27). -/
  remaining : s.phase = .plan ∨ blockPhase s.phase = true → s.bytesRemaining.toNat < s.cfg.maxLen

/-- A transaction boundary (R16): the engine rests, and no outgoing transaction has been placed (log 16). -/
abbrev AtBoundary (s : State) : Prop := restingPhase s.phase = true ∧ s.pos = .first

/-- `cw`, the number of bits needed to write `C` (R30). -/
def countWidth (c : Config) : Nat := Nat.log2 c.capacity + 1

/-- `k` steps, where none of them stops. -/
def runSteps : Nat → State → Result
  | 0, s => .next s
  | k + 1, s => andThen (step s) (runSteps k)

/-- The operations that arrive on the incoming interface (format T of R77). -/
def incomingOp : Instr → Bool
  | .start => true
  | .len _ => true
  | .lenFail => true
  | .data _ _ => true
  | .rdFail => true
  | _ => false

end Sys2Proof.Machine
end

