-- ==== Sys2Proof/WellFormed.lean ====
section
/-! DEFINITION. Which operands have a meaning (spec/30_encoding.md R74, R76, R77, R80 c and d). -/

namespace Sys2Proof

/-- A `DATA` carries exactly `n` payload bytes (R74, R80 c), `LDW` takes `t ≤ 15`, `SCHED` takes
`16 ≤ t` (R80 d); every other operand is any value of its field. -/
def Instr.wellFormed : Instr → Bool
  | .start => true
  | .len _ => true
  | .lenFail => true
  | .data n p => p.length == n.toNat
  | .rdFail => true
  | .lenReq => true
  | .rdReq _ => true
  | .done => true
  | .error _ => true
  | .mark => true
  | .zfill => true
  | .suffix => true
  | .slice => true
  | .synth => true
  | .ldw t => decide (t.toNat < 16)
  | .sched t => decide (16 ≤ t.toNat)
  | .ldv => true
  | .round _ => true
  | .ffwd => true

/-- Well-formedness as a proposition. -/
abbrev Instr.WellFormed (i : Instr) : Prop := i.wellFormed = true

end Sys2Proof
end

