-- ==== Sys2Proof/Certificates/Slice0/Obligations.lean ====
section
/-! DEFINITION. The statements for the provers. Each docstring names the rules of spec/ it rests on; a frame is
written `t = { s with f := t.f }`: every field but the ones named is unchanged. -/

namespace Sys2Proof.Machine

/-- Every byte of the chunk buffer reads as before. -/
abbrev SameBytes (s t : State) : Prop := ∀ a, readByte t.cbuf a = readByte s.cbuf a

/-- Every byte of the chunk buffer but the `n` from offset `k` reads as before. -/
abbrev SameBytesOutside (k n : Nat) (s t : State) : Prop :=
  ∀ a, a < k ∨ k + n ≤ a → readByte t.cbuf a = readByte s.cbuf a

/-- `DATA`, `n` bytes of payload, presented where it is accepted (R103). -/
abbrev DataAccepted (n : BitVec 64) (p : List Byte) (s : State) : Prop :=
  s.phase = .fill ∧ p.length = n.toNat

/-- `t` is `s` after `raise` with the code `c` (R211, R212): the transaction is over, `ERROR c` has been emitted,
and nothing but `err`, the sequencer state and the outgoing interface has changed. The interface as a list of
headers (log 9) and that `j` and `t` keep their values (log 5) is the model's choice. -/
abbrev Raised (c : BitVec 3) (s t : State) : Prop :=
  t.err = c ∧ t.phase = .failed ∧ AtBoundary t ∧
    t.outbox = s.outbox ++ [headerBits 0x29 (c.setWidth 64)] ∧
    t = { s with err := t.err, phase := t.phase, pos := t.pos, outbox := t.outbox } ∧ SameBytes s t

/-- The first 64 primes, `p_0 = 2` to `p_63 = 311` (R25). -/
def firstPrimes : List Nat :=
  [2, 3, 5, 7, 11, 13, 17, 19, 23, 29, 31, 37, 41, 43, 47, 53] ++
  [59, 61, 67, 71, 73, 79, 83, 89, 97, 101, 103, 107, 109, 113, 127, 131] ++
  [137, 139, 149, 151, 157, 163, 167, 173, 179, 181, 191, 193, 197, 199, 211, 223] ++
  [227, 229, 233, 239, 241, 251, 257, 263, 269, 271, 277, 281, 283, 293, 307, 311]

/-- The blocks `SLICE` will still take from the chunk, from block `j` on. -/
def remainingBlocks (s : State) : List (Vector Byte 64) :=
  (List.range' s.j (s.nblk - s.j)).map fun j => blockAt s.cbuf (64 * j)

end Sys2Proof.Machine

open Sys2Proof Sys2Proof.Machine

/-! ### Encodings -/

/-- Decoding what the encoder writes gives the operation back, with every operand at every value, whatever
bytes follow (R74, R75, R76, R77). -/
def Obligations.DecodeEncodeRoundTrip : Prop :=
  ∀ (i : Instr) (rest : List Byte), i.WellFormed → decode (encode i ++ rest) = .ok (i, rest)

/-- The decoder gives only operations that have a meaning, and takes exactly the bytes of one encoding off
the front (R74, R76, R80 c and d). -/
def Obligations.DecodedOperationsAreWellFormed : Prop :=
  ∀ (bs rest : List Byte) (i : Instr), decode bs = .ok (i, rest) →
    i.WellFormed ∧ ∃ used, bs = used ++ rest ∧ used.length = (encode i).length

/-- But for the three transactions whose `arg` is reserved and ignored, an operation is decoded from one
string of bytes only (R74, R76, R77; that the fixed fields are checked is the model's, log 14). -/
def Obligations.EncodedWordsHaveOneMeaning : Prop :=
  ∀ (bs rest : List Byte) (i : Instr), decode bs = .ok (i, rest) →
    i ≠ .start → i ≠ .lenFail → i ≠ .rdFail → bs = encode i ++ rest

/-- Words written out from the tables of R74 to R77, at least one of each family. That a format U word stands as
two bytes with `uop` first is the model's choice (log 15): R76 never serialises it. -/
def Obligations.WrittenOutWordsDecode : Prop :=
  decode [0x01, 0, 0, 0, 0, 0, 0, 0, 0] = .ok (.start, []) ∧
  decode [0x10, 0, 0, 0, 1, 0, 0, 0, 0] = .ok (.len 4294967296, []) ∧
  decode [0x12, 0, 0, 0, 0, 0, 0, 0, 3, 0x61, 0x62, 0x63, 0x01] =
    .ok (.data 3 [0x61, 0x62, 0x63], [0x01]) ∧
  decode [0x21, 0, 0, 0, 0, 0, 0, 0, 0x40] = .ok (.rdReq 64, []) ∧
  decode [0x29, 0, 0, 0, 0, 0, 0, 0, 2] = .ok (.error 2, []) ∧
  decode [0b01000000, 0b00000000] = .ok (.mark, []) ∧
  decode [0b01000100, 0b00000000] = .ok (.synth, []) ∧
  decode [0b01010000, 0b00001111] = .ok (.ldw 15, []) ∧
  decode [0b01010001, 0b00010000] = .ok (.sched 16, []) ∧
  decode [0b01100001, 0b00111111] = .ok (.round 63, []) ∧
  decode [0b01100010, 0b00000000] = .ok (.ffwd, [])

/-- What the sequencer issues always decodes to a well-formed operation of format Q or U: the unassigned words
are never generated (R80 d, R117). -/
def Obligations.IssuedWordsAreOperations : Prop :=
  ∀ s : State, issue s ≠ [] →
    ∃ i, decode (issue s) = .ok (i, []) ∧ i.WellFormed ∧ incomingOp i = false

/-- An incoming transaction whose code is not one of the five is not accepted (R80 a). -/
def Obligations.UnassignedCodesAreRefused : Prop :=
  ∀ (s : State) (c : Byte) (rest : List Byte), AtBoundary s → s.resetIn = false →
    s.inbox = c :: rest → c ∉ ([0x01, 0x10, 0x11, 0x12, 0x13] : List Byte) →
    step s = .refused (.unassignedCode c)

/-- A transaction presented in a phase other than the one R77 lists is not accepted (R80 b), and operands that
cannot be formed or are never generated have no meaning (R80 c, d). -/
def Obligations.MistimedOperationsAreRefused : Prop :=
  ∀ s : State,
    (s.phase ≠ .idle → s.phase ≠ .done → s.phase ≠ .failed →
      exec .start s = .refused (.notAccepted s.phase)) ∧
    (s.phase ≠ .probe → ∀ l, exec (.len l) s = .refused (.notAccepted s.phase)) ∧
    (s.phase ≠ .probe → exec .lenFail s = .refused (.notAccepted s.phase)) ∧
    (s.phase ≠ .fill → ∀ n p, p.length = n.toNat →
      exec (.data n p) s = .refused (.notAccepted s.phase)) ∧
    (s.phase ≠ .fill → exec .rdFail s = .refused (.notAccepted s.phase)) ∧
    (∀ n p, p.length ≠ n.toNat → exec (.data n p) s = .refused (.noMeaning "DATA")) ∧
    (∀ t : BitVec 6, 16 ≤ t.toNat → exec (.ldw t) s = .refused (.noMeaning "LDW")) ∧
    (∀ t : BitVec 6, t.toNat < 16 → exec (.sched t) s = .refused (.noMeaning "SCHED"))

/-! ### Words and bytes -/

/-- `add32` and `>>` as arithmetic on numbers (R9, R11). That a sum is the same in any order and any grouping the
spec marks as its own inference: "derived: addition modulo 2^32 is associative and commutative". -/
def Obligations.WordAdditionAndShift : Prop :=
  (∀ x y : Word, (add32 x y).toNat = (x.toNat + y.toNat) % 2 ^ 32) ∧
  (∀ x y z : Word, add32 x y = add32 y x ∧ add32 (add32 x y) z = add32 x (add32 y z)) ∧
  (∀ (x : Word) (n : Nat), (shr x n).toNat = x.toNat / 2 ^ n)

/-- `rotr` by its formula and bit by bit (R10, which the spec marks as general knowledge). -/
def Obligations.RotateRightBits : Prop :=
  ∀ (x : Word) (n : Nat), 0 < n → n < 32 →
    (rotr x n).toNat = ((x.toNat >>> n) ||| (x.toNat <<< (32 - n))) % 2 ^ 32 ∧
    ∀ i < 32, (rotr x n).getLsbD i = x.getLsbD ((i + n) % 32)

/-- `BE32`, `bytesBE32`, `bytesBE64` (R13). -/
def Obligations.ByteOrderConversions : Prop :=
  (∀ b0 b1 b2 b3 : Byte, (be32 b0 b1 b2 b3).toNat =
    b0.toNat * 2 ^ 24 + b1.toNat * 2 ^ 16 + b2.toNat * 2 ^ 8 + b3.toNat) ∧
  (∀ b0 b1 b2 b3 : Byte, bytesBE32 (be32 b0 b1 b2 b3) = [b0, b1, b2, b3]) ∧
  (∀ w : Word, bytesBE32 w = [w.extractLsb' 24 8, w.extractLsb' 16 8, w.extractLsb' 8 8,
    w.extractLsb' 0 8]) ∧
  (∀ (v : BitVec 64) (k : Nat) (hk : k < 8),
    (bytesBE64 v)[k].toNat = v.toNat / 2 ^ (8 * (7 - k)) % 256)

/-- `σ0` and `σ1`: their formulas, bit by bit, and at the values their rules list (R140, R141). -/
def Obligations.SmallSigmaBits : Prop :=
  (∀ x : Word, sigma0 x = rotr x 7 ^^^ rotr x 18 ^^^ shr x 3 ∧
    sigma1 x = rotr x 17 ^^^ rotr x 19 ^^^ shr x 10) ∧
  (∀ (x : Word) (i : Nat), i < 32 → (sigma0 x).getLsbD i =
    ((x.getLsbD ((i + 7) % 32) ^^ x.getLsbD ((i + 18) % 32)) ^^
      (if i ≤ 28 then x.getLsbD (i + 3) else false))) ∧
  (∀ (x : Word) (i : Nat), i < 32 → (sigma1 x).getLsbD i =
    ((x.getLsbD ((i + 17) % 32) ^^ x.getLsbD ((i + 19) % 32)) ^^
      (if i ≤ 21 then x.getLsbD (i + 10) else false))) ∧
  ([0, 1, 0x80000000, 0xffffffff, 0x12345678].map sigma0 =
    [0, 0x02004000, 0x11002000, 0x1fffffff, 0xe7fce6ee]) ∧
  ([0, 1, 0x80000000, 0xffffffff, 0x12345678].map sigma1 =
    [0, 0x0000a000, 0x00205000, 0x003fffff, 0xa1f78649])

/-- `Σ0` and `Σ1`: their formulas and the values their rules list (R160, R161). The bit by bit clauses follow
from the formulas with R10, which the spec marks as general knowledge. -/
def Obligations.BigSigmaBits : Prop :=
  (∀ x : Word, bigSigma0 x = rotr x 2 ^^^ rotr x 13 ^^^ rotr x 22 ∧
    bigSigma1 x = rotr x 6 ^^^ rotr x 11 ^^^ rotr x 25) ∧
  (∀ (x : Word) (i : Nat), i < 32 → (bigSigma0 x).getLsbD i =
    ((x.getLsbD ((i + 2) % 32) ^^ x.getLsbD ((i + 13) % 32)) ^^ x.getLsbD ((i + 22) % 32))) ∧
  (∀ (x : Word) (i : Nat), i < 32 → (bigSigma1 x).getLsbD i =
    ((x.getLsbD ((i + 6) % 32) ^^ x.getLsbD ((i + 11) % 32)) ^^ x.getLsbD ((i + 25) % 32))) ∧
  ([0, 1, 0x80000000, 0xffffffff, 0x6a09e667, 0x12345678].map bigSigma0 =
    [0, 0x40080400, 0x20040200, 0xffffffff, 0xce20b47e, 0x66146474]) ∧
  ([0, 1, 0x80000000, 0xffffffff, 0x510e527f, 0x12345678].map bigSigma1 =
    [0, 0x04200080, 0x02100040, 0xffffffff, 0x3587272b, 0x3561abda])

/-- `Ch` takes the bit of `y` where `x` has a 1, of `z` where it has a 0; `Maj` the bit that at least two of the
three hold; `Maj` is symmetric (R162, R163). -/
def Obligations.ChooseAndMajorityBits : Prop :=
  (∀ (x y z : Word) (i : Nat), (choose x y z).getLsbD i =
    if x.getLsbD i then y.getLsbD i else z.getLsbD i) ∧
  (∀ x y z : Word, choose x y z = (x &&& y) ^^^ (~~~x &&& z) ∧
    choose x y z = (x &&& y) ||| (~~~x &&& z)) ∧
  (∀ x y z : Word, majority x y z = (x &&& y) ^^^ (x &&& z) ^^^ (y &&& z)) ∧
  (∀ (x y z : Word) (i : Nat), (majority x y z).getLsbD i =
    decide (2 ≤ (x.getLsbD i).toNat + (y.getLsbD i).toNat + (z.getLsbD i).toNat)) ∧
  (∀ x y z : Word, majority x y z = majority y x z ∧ majority x y z = majority x z y) ∧
  choose 0xffff0000 0x12345678 0x9abcdef0 = 0x1234def0 ∧
  choose 0x510e527f 0x9b05688c 0x1f83d9ab = 0x1f85c98c ∧
  majority 0xf0f0f0f0 0xff00ff00 0xffff0000 = 0xfff0f000 ∧
  majority 0x6a09e667 0xbb67ae85 0x3c6ef372 = 0x3a6fe667

/-- `pad_zeros` is the document's `56 - (used mod 64)`, adjusted by 64 if negative, and brings the suffix to the
end of a block (R79). -/
def Obligations.PadZerosReachesTheSuffixSlot : Prop :=
  ∀ used : Nat,
    (used % 64 ≤ 56 → padZeros used = 56 - used % 64 ∧ padZeros used ≤ 56) ∧
    (56 < used % 64 → padZeros used = 120 - used % 64 ∧ 57 ≤ padZeros used ∧ padZeros used ≤ 63) ∧
    ((padZeros used : Int) = if (56 : Int) - (used % 64 : Nat) < 0
      then (56 : Int) - (used % 64 : Nat) + 64 else (56 : Int) - (used % 64 : Nat)) ∧
    (used + padZeros used) % 64 = 56

/-- `K[i] = floor(cbrt(p_i)·2^32) mod 2^32` for the first 64 primes in ascending order (R25): `q` is the integer
part, and `q·2^32 + K[i]` the integer cube root of `p_i·2^96`; and `IV[i] = floor(sqrt(p_i)·2^32) mod 2^32` for
the primes 2 to 19 (R26). -/
def Obligations.RomsHoldRootsOfPrimes : Prop :=
  (firstPrimes.length = 64 ∧ firstPrimes.Pairwise (· < ·) ∧
    ∀ n, n ∈ firstPrimes ↔ n.Prime ∧ n ≤ 311) ∧
  (∀ (i : Nat) (hi : i < 64), ∃ q,
    (q * 2 ^ 32 + romK[i].toNat) ^ 3 ≤ firstPrimes.getD i 0 * 2 ^ 96 ∧
    firstPrimes.getD i 0 * 2 ^ 96 < (q * 2 ^ 32 + romK[i].toNat + 1) ^ 3) ∧
  (∀ (i : Nat) (hi : i < 8), ∃ q,
    (q * 2 ^ 32 + romIV[i].toNat) ^ 2 ≤ firstPrimes.getD i 0 * 2 ^ 64 ∧
    firstPrimes.getD i 0 * 2 ^ 64 < (q * 2 ^ 32 + romIV[i].toNat + 1) ^ 2)

/-! ### Incoming transactions -/

/-- `START` in IDLE, DONE, FAILED: `err` is 0, `H` is `IV`, the phase PROBE, `LEN_REQ` has been emitted, and
nothing else has changed (R100). The interface as a list of headers (log 9) and that `j` and `t` keep their values
(log 5) is the model's choice. -/
def Obligations.StartBeginsARun : Prop :=
  ∀ s : State, s.phase = .idle ∨ s.phase = .done ∨ s.phase = .failed →
    ∃ t, exec .start s = .next t ∧ t.err = 0 ∧ (∀ (k : Nat) (hk : k < 8), t.h[k] = romIV[k]) ∧
      t.phase = .probe ∧ AtBoundary t ∧ t.outbox = s.outbox ++ [headerBits 0x20 0] ∧
      t = { s with err := t.err, h := t.h, phase := t.phase, pos := t.pos, outbox := t.outbox } ∧
      SameBytes s t

/-- `LEN L` in PROBE: with `L < MAX_LEN` the length is recorded and `RD_REQ C` emitted (R101, R72); with
`L ≥ MAX_LEN` it raises OVERSIZE, code 2 (R101, R202, R211). The interface as a list of headers (log 9) and that
`j` and `t` keep their values (log 5) is the model's choice. -/
def Obligations.LengthIsRecordedOrRejected : Prop :=
  ∀ (s : State) (l : BitVec 64), s.phase = .probe →
    (l.toNat < s.cfg.maxLen → ∃ t, exec (.len l) s = .next t ∧ t.bytesRemaining = l ∧
      (∀ (k : Nat) (hk : k < 8),
        t.lenSuffix[k].toNat = (8 * l.toNat) % 2 ^ 64 / 2 ^ (8 * (7 - k)) % 256) ∧
      t.markerEmitted = false ∧ t.phase = .fill ∧ AtBoundary t ∧
      t.outbox = s.outbox ++ [headerBits 0x21 (BitVec.ofNat 64 s.cfg.capacity)] ∧
      t = { s with bytesRemaining := t.bytesRemaining, lenSuffix := t.lenSuffix,
                   markerEmitted := t.markerEmitted, phase := t.phase, pos := t.pos,
                   outbox := t.outbox } ∧
      SameBytes s t) ∧
    (s.cfg.maxLen ≤ l.toNat → ∃ t, exec (.len l) s = .next t ∧ Raised 2 s t)

/-- `LEN_FAIL` raises SIZE_PROBE_FAIL, code 1, and `RD_FAIL` raises READ_FAIL, code 3: that is all they do
(R102, R104, R201, R203). The interface as a list of headers (log 9) and that `j` and `t` keep their values (log 5)
is the model's choice. -/
def Obligations.SourceFailuresRaise : Prop :=
  ∀ s : State,
    (s.phase = .probe → ∃ t, exec .lenFail s = .next t ∧ Raised 1 s t) ∧
    (s.phase = .fill → ∃ t, exec .rdFail s = .next t ∧ Raised 3 s t)

/-- The four errors of `DATA`, each raised where its check is the first that applies (R103 lines 1 to 5, R204
to R207, R210). The interface as a list of headers (log 9) and that `j` and `t` keep their values (log 5) is the
model's choice. -/
def Obligations.DataErrorsInOrder : Prop :=
  ∀ (s : State) (n : BitVec 64) (p : List Byte), DataAccepted n p s →
    (s.cfg.capacity < n.toNat → ∃ t, exec (.data n p) s = .next t ∧ Raised 7 s t) ∧
    (n.toNat ≤ s.cfg.capacity → s.bytesRemaining.toNat < n.toNat →
      ∃ t, exec (.data n p) s = .next t ∧ Raised 6 s t) ∧
    (n = 0 → s.markerEmitted = false → s.bytesRemaining ≠ 0 →
      ∃ t, exec (.data n p) s = .next t ∧ Raised 5 s t) ∧
    (n ≠ 0 → n.toNat < s.cfg.capacity → n.toNat < s.bytesRemaining.toNat →
      ∃ t, exec (.data n p) s = .next t ∧ Raised 4 s t)

/-- The zero-byte read after the padding ends the run: the phase DONE, `DONE` emitted, and nothing else changed
(R103 line 3, R107). The interface as a list of headers (log 9) and that `j` and `t` keep their values (log 5) is
the model's choice. -/
def Obligations.ZeroReadAfterPaddingStops : Prop :=
  ∀ s : State, s.phase = .fill → s.markerEmitted = true →
    ∃ t, exec (.data 0 []) s = .next t ∧ t.phase = .done ∧ AtBoundary t ∧
      t.outbox = s.outbox ++ [headerBits 0x28 0] ∧
      t = { s with phase := t.phase, pos := t.pos, outbox := t.outbox } ∧ SameBytes s t

/-- `DATA` takes the chunk (R103 lines 6 to 9, R109): the payload is stored from offset 0, the counts are set, a
full chunk is planned, a partial one goes to PLAN. That `j` keeps its value on the way to PLAN, and `t` on both
ways, is the model's choice (log 5): R117 writes (PLAN, -, -) and (SLICE, 0, -). -/
def Obligations.DataTakesTheChunk : Prop :=
  ∀ (s : State) (n : BitVec 64) (p : List Byte), DataAccepted n p s →
    n.toNat ≤ s.cfg.capacity → n.toNat ≤ s.bytesRemaining.toNat →
    (n = 0 → s.markerEmitted = false) →
    (n.toNat = s.cfg.capacity ∧ n ≠ 0 ∨ n = s.bytesRemaining) →
    ∃ t, exec (.data n p) s = .next t ∧
      (∀ i < n.toNat, readByte t.cbuf i = p[i]?) ∧ SameBytesOutside 0 n.toNat s t ∧
      t.bytesRead = n.toNat ∧ t.bytesRemaining.toNat = s.bytesRemaining.toNat - n.toNat ∧
      (n.toNat = s.cfg.capacity → t.phase = .slice ∧ t.j = 0 ∧ t.nblk = s.cfg.capacity / 64 ∧
        t.synthPending = decide (n = s.bytesRemaining)) ∧
      (n.toNat < s.cfg.capacity → t.phase = .plan ∧ t.j = s.j ∧ t.nblk = s.nblk ∧
        t.synthPending = s.synthPending) ∧
      t.pos = .first ∧
      t = { s with cbuf := t.cbuf, bytesRead := t.bytesRead, bytesRemaining := t.bytesRemaining,
                   nblk := t.nblk, synthPending := t.synthPending, phase := t.phase, j := t.j,
                   pos := t.pos }

/-! ### Outgoing transactions -/

/-- `LEN_REQ`, `RD_REQ C`, `DONE`, `ERROR e` put their 9-byte header, code and argument, on the outgoing
interface and change nothing else (R75, R105, R106, R107, R108). The interface as a list of headers is the
model's (log 9). -/
def Obligations.NotificationsOnlyEmit : Prop :=
  ∀ s : State,
    (∃ t, exec .lenReq s = .next t ∧ t.outbox = s.outbox ++ [0x200000000000000000#72] ∧
      t = { s with outbox := t.outbox } ∧ SameBytes s t) ∧
    (∀ c, ∃ t, exec (.rdReq c) s = .next t ∧
      (∃ w : BitVec 72, t.outbox = s.outbox ++ [w] ∧ w.toNat = 0x21 * 2 ^ 64 + c.toNat) ∧
      t = { s with outbox := t.outbox } ∧ SameBytes s t) ∧
    (∃ t, exec .done s = .next t ∧ t.outbox = s.outbox ++ [0x280000000000000000#72] ∧
      t = { s with outbox := t.outbox } ∧ SameBytes s t) ∧
    (∀ e, ∃ t, exec (.error e) s = .next t ∧
      (∃ w : BitVec 72, t.outbox = s.outbox ++ [w] ∧ w.toNat = 0x29 * 2 ^ 64 + e.toNat) ∧
      t = { s with outbox := t.outbox } ∧ SameBytes s t)

/-- The level output and the transaction are two views of one event (R75, R77, R105 to R108): a step that enters
PROBE, FILL, DONE or FAILED emits `LEN_REQ`, `RD_REQ C`, `DONE` or `ERROR err` in that same step, and no other step
emits anything. The premise that no outgoing transaction has been placed from outside rules out states that no run
reaches (log 16, EveryStepKeepsTheInvariant); the interface as a list of headers is the model's choice (log 9). -/
def Obligations.EnteringAPhaseEmits : Prop :=
  ∀ s t : State, (restingPhase s.phase = true → s.pos = .first) → step s = .next t →
    (t.phase = s.phase → t.outbox = s.outbox) ∧
    (t.phase ≠ s.phase →
      (lenReqOut t = true → t.outbox = s.outbox ++ [headerBits 0x20 0]) ∧
      (rdReqOut t = true →
        t.outbox = s.outbox ++ [headerBits 0x21 (BitVec.ofNat 64 t.cfg.capacity)]) ∧
      (digestValid t = true → t.outbox = s.outbox ++ [headerBits 0x28 0]) ∧
      (errorOut t = true → t.outbox = s.outbox ++ [headerBits 0x29 (t.err.setWidth 64)]) ∧
      (t.phase = .idle ∨ restingPhase t.phase = false → t.outbox = s.outbox))

/-! ### Padding and slicing -/

/-- `MARK` (R111): the byte `0x80` at `bytes_read`, `used`, the flag, and nothing else. -/
def Obligations.MarkWritesTheMarker : Prop :=
  ∀ s : State, s.bytesRead < s.cfg.capacity →
    ∃ t, exec .mark s = .next t ∧ markOffset s = s.bytesRead ∧
      readByte t.cbuf (markOffset s) = some 0x80 ∧ SameBytesOutside (markOffset s) 1 s t ∧
      t.used = s.bytesRead + 1 ∧ t.markerEmitted = true ∧
      t = { s with cbuf := t.cbuf, used := t.used, markerEmitted := t.markerEmitted }

/-- `ZFILL` (R112) with the count of the plan (R110): zeros from `used`, and nothing else. The bounds of R110
are what makes it complete. -/
def Obligations.ZeroFillWritesThePlannedZeros : Prop :=
  ∀ s : State, s.cfg.Valid → s.used ≤ s.cfg.capacity →
    ∃ t, exec .zfill s = .next t ∧ zfillOffset s = s.used ∧
      zfillCount s = (if s.cfg.capacity - s.used < 8 then s.cfg.capacity - s.used
        else padZeros s.used) ∧
      (∀ i < zfillCount s, readByte t.cbuf (zfillOffset s + i) = some 0) ∧
      SameBytesOutside (zfillOffset s) (zfillCount s) s t ∧
      t = { s with cbuf := t.cbuf }

/-- `SUFFIX` (R113): the eight bytes of `len_suffix` at `used + pad_zeros`, the last eight of a 64-byte block. -/
def Obligations.SuffixEndsABlock : Prop :=
  ∀ s : State, s.cfg.Valid → s.used + 8 ≤ s.cfg.capacity →
    ∃ t, exec .suffix s = .next t ∧ suffixOffset s = s.used + padZeros s.used ∧
      suffixOffset s % 64 = 56 ∧
      (∀ (k : Nat) (hk : k < 8), readByte t.cbuf (suffixOffset s + k) = some s.lenSuffix[k]) ∧
      SameBytesOutside (suffixOffset s) 8 s t ∧
      t = { s with cbuf := t.cbuf }

/-- `SLICE j` (R114): `blk[k] <- cbuf[64j + k]`, where the 64 bytes are inside the buffer and written. -/
def Obligations.SliceCopiesTheBlock : Prop :=
  ∀ s : State, 64 * s.j + 64 ≤ s.cfg.capacity →
    (∀ k < 64, (readByte s.cbuf (64 * s.j + k)).isSome = true) →
    ∃ t, exec .slice s = .next t ∧
      (∀ (k : Nat) (hk : k < 64), some t.blk[k] = readByte s.cbuf (64 * s.j + k)) ∧
      t = { s with blk := t.blk } ∧ SameBytes s t

/-- `SYNTH` (R115): the marker unless it has been emitted, 55 zeros, the suffix; both flags. -/
def Obligations.SynthBuildsAPaddingBlock : Prop :=
  ∀ s : State,
    ∃ t, exec .synth s = .next t ∧
      t.blk[0] = (if s.markerEmitted = false then 0x80 else 0x00) ∧
      (∀ (k : Nat) (hk : k < 64), 1 ≤ k → k ≤ 55 → t.blk[k] = 0) ∧
      (∀ (k : Nat) (hk : k < 8), t.blk[56 + k] = s.lenSuffix[k]) ∧
      t.markerEmitted = true ∧ t.synthPending = false ∧
      t = { s with blk := t.blk, markerEmitted := t.markerEmitted,
                   synthPending := t.synthPending } ∧ SameBytes s t

/-- Where `MARK`, `ZFILL`, `SUFFIX`, `SLICE` reach outside the buffer, or `SLICE` reads a byte that nothing has
written, the model stops with a fault: the model's choice (log 12, log 13) for what R14, R38 and R64 leave
without a meaning. -/
def Obligations.AccessesWithoutMeaningFault : Prop :=
  ∀ s : State,
    (s.cfg.capacity ≤ s.bytesRead → exec .mark s = .fault (.outsideBuffer (markOffset s))) ∧
    (s.cfg.capacity < zfillOffset s + zfillCount s →
      exec .zfill s = .fault (.outsideBuffer (zfillOffset s))) ∧
    (s.cfg.capacity < suffixOffset s + 8 →
      exec .suffix s = .fault (.outsideBuffer (suffixOffset s))) ∧
    (s.cfg.capacity < 64 * s.j + 64 → exec .slice s = .fault (.outsideBuffer (sliceOffset s))) ∧
    (64 * s.j + 64 ≤ s.cfg.capacity →
      (∃ k < 64, readByte s.cbuf (64 * s.j + k) = none) →
      ∃ a, exec .slice s = .fault (.unwrittenByte a) ∧ readByte s.cbuf a = none ∧
        64 * s.j ≤ a ∧ a < 64 * s.j + 64)

/-- The whole partial-chunk plan (R110, with R111 to R113 and the PLAN row of R117): from PLAN, two steps where
the suffix does not fit and three where it does lay out marker, zeros and suffix behind the last real byte,
set `nblk` and `synth_pending`, and lead to the first block. One step per operation (log 4) and that `t` keeps
its value (log 5; R117 writes (SLICE, 0, -)) is the model's choice. -/
def Obligations.PartialPlanLaysOutThePadding : Prop :=
  ∀ s : State, s.cfg.Valid → s.resetIn = false → s.phase = .plan → s.pos = .first →
    s.bytesRead < s.cfg.capacity →
    ∃ t, runSteps (if s.cfg.capacity - (s.bytesRead + 1) < 8 then 2 else 3) s = .next t ∧
      t.phase = .slice ∧ t.j = 0 ∧ t.pos = .first ∧ t.used = s.bytesRead + 1 ∧
      t.markerEmitted = true ∧
      (s.cfg.capacity - (s.bytesRead + 1) < 8 →
        t.nblk = s.cfg.capacity / 64 ∧ t.synthPending = true ∧
        (∀ a, readByte t.cbuf a =
          if a < s.bytesRead then readByte s.cbuf a
          else if a = s.bytesRead then some 0x80
          else if a < s.cfg.capacity then some 0
          else readByte s.cbuf a)) ∧
      (8 ≤ s.cfg.capacity - (s.bytesRead + 1) →
        64 * t.nblk = s.bytesRead + 1 + padZeros (s.bytesRead + 1) + 8 ∧ t.synthPending = false ∧
        (∀ a, readByte t.cbuf a =
          if a < s.bytesRead then readByte s.cbuf a
          else if a = s.bytesRead then some 0x80
          else if a < 64 * t.nblk - 8 then some 0
          else if a < 64 * t.nblk then s.lenSuffix[a - (64 * t.nblk - 8)]?
          else readByte s.cbuf a)) ∧
      1 ≤ t.nblk ∧ t.nblk ≤ s.cfg.capacity / 64 ∧
      t = { s with cbuf := t.cbuf, used := t.used, markerEmitted := t.markerEmitted,
                   nblk := t.nblk, synthPending := t.synthPending, phase := t.phase, j := t.j,
                   pos := t.pos }

/-! ### Expander and Core -/

/-- `LDW t` for `t ≤ 15` (R142), and its word as a number: `uop` in bits 15:8, `idx` in bits 5:0 (R76). -/
def Obligations.LoadWordIsBigEndian : Prop :=
  ∀ (s : State) (t : BitVec 6) (ht : t.toNat < 16), decodeTableWord 16 (0x5000 + t.toNat) = some (.ldw t) ∧
    ∃ u, exec (.ldw t) s = .next u ∧
      u.w[t.toNat].toNat = s.blk[4 * t.toNat].toNat * 2 ^ 24 + s.blk[4 * t.toNat + 1].toNat * 2 ^ 16 +
        s.blk[4 * t.toNat + 2].toNat * 2 ^ 8 + s.blk[4 * t.toNat + 3].toNat ∧
      (∀ (k : Nat) (hk : k < 64), k ≠ t.toNat → u.w[k] = s.w[k]) ∧
      u = { s with w := u.w } ∧ SameBytes s u

/-- `SCHED t` for `16 ≤ t` (R143), and its word as a number: `uop` in bits 15:8, `idx` in bits 5:0 (R76). -/
def Obligations.ScheduleWordFollowsTheRecurrence : Prop :=
  ∀ (s : State) (t : BitVec 6), 16 ≤ t.toNat → decodeTableWord 16 (0x5100 + t.toNat) = some (.sched t) ∧
    ∃ u, exec (.sched t) s = .next u ∧
      u.w[t.toNat]'t.isLt = s.w[t.toNat - 16]'(by omega) + sigma0 (s.w[t.toNat - 15]'(by omega)) +
        s.w[t.toNat - 7]'(by omega) + sigma1 (s.w[t.toNat - 2]'(by omega)) ∧
      (∀ (k : Nat) (hk : k < 64), k ≠ t.toNat → u.w[k] = s.w[k]) ∧
      u = { s with w := u.w } ∧ SameBytes s u

/-- `LDV` copies `H` into the working variables (R164) and `FFWD` adds them back into `H`, word by word modulo
2^32 (R166); their words as numbers, `uop` in bits 15:8 (R76). -/
def Obligations.HashStateIsLoadedAndFedForward : Prop :=
  decodeTableWord 16 0x6000 = some .ldv ∧ decodeTableWord 16 0x6200 = some .ffwd ∧
  ∀ s : State,
    (∃ t, exec .ldv s = .next t ∧ (∀ (k : Nat) (hk : k < 8), t.v[k] = s.h[k]) ∧
      t = { s with v := t.v } ∧ SameBytes s t) ∧
    (∃ t, exec .ffwd s = .next t ∧
      (∀ (k : Nat) (hk : k < 8), t.h[k].toNat = (s.h[k].toNat + s.v[k].toNat) % 2 ^ 32) ∧
      t = { s with h := t.h } ∧ SameBytes s t)

/-- `ROUND i` (R165), with `T1` and `T2` from the working variables before the round, and its word as a number:
`uop` in bits 15:8, `idx` in bits 5:0 (R76). -/
def Obligations.RoundRewritesTheWorkingVariables : Prop :=
  ∀ (s : State) (i : BitVec 6), ∀ t1 t2 : Word,
    t1 = s.v[7] + bigSigma1 s.v[4] + romK[i.toNat]'i.isLt + s.w[i.toNat]'i.isLt +
      choose s.v[4] s.v[5] s.v[6] →
    t2 = bigSigma0 s.v[0] + majority s.v[0] s.v[1] s.v[2] →
    decodeTableWord 16 (0x6100 + i.toNat) = some (.round i) ∧
    ∃ t, exec (.round i) s = .next t ∧
      t.v[0] = t1 + t2 ∧ t.v[1] = s.v[0] ∧ t.v[2] = s.v[1] ∧ t.v[3] = s.v[2] ∧
      t.v[4] = s.v[3] + t1 ∧ t.v[5] = s.v[4] ∧ t.v[6] = s.v[5] ∧ t.v[7] = s.v[6] ∧
      t = { s with v := t.v } ∧ SameBytes s t

/-- The pseudo-operation `EXPAND`, the 64 micro-operations in order, writes `W` with a function of the block,
whatever `W` held, and touches nothing else (R83, R144, R145): its first 16 words are the block's, the others
obey the recurrence. -/
def Obligations.ExpandSequenceComputesTheSchedule : Prop :=
  (∀ s : State, runOps expandOps s = .next { s with w := expandBlock s.blk }) ∧
  ∀ blk : Vector Byte 64,
    (∀ (t : Nat) (ht : t < 16), (expandBlock blk)[t] =
      be32 blk[4 * t] blk[4 * t + 1] blk[4 * t + 2] blk[4 * t + 3]) ∧
    (∀ (t : Nat) (ht : t < 64), 16 ≤ t → (expandBlock blk)[t] =
      (expandBlock blk)[t - 16] + sigma0 (expandBlock blk)[t - 15] + (expandBlock blk)[t - 7] +
        sigma1 (expandBlock blk)[t - 2])

/-- The pseudo-operation `COMPRESS` (R83, R167). -/
def Obligations.CompressSequenceUpdatesTheHash : Prop :=
  ∀ s : State, runOps compressOps s =
    .next { s with v := roundsOf s.w s.h 64, h := compressHash s.w s.h }

/-- The sequencer processes the block in the latch (R116, R117, R144, R167): from (EXPAND, j, 0), after 129
steps the engine is at `FFWD`, and the step after that leaves the hash state of `BLOCK` and goes on with the
next block, the synthetic block, or the next read. One step per operation (log 4) and what `afterBlock` keeps
where R117 writes `-` (log 5) is the model's choice. -/
def Obligations.SequencerProcessesABlock : Prop :=
  ∀ s : State, s.resetIn = false → s.phase = .expand → s.t = 0 → s.pos = .first →
    runSteps 130 s = .next (afterBlock { s with
      phase := .compress, t := 63, pos := .second, w := expandBlock s.blk,
      v := roundsOf (expandBlock s.blk) s.h 64, h := hashBlock s.h s.blk })

/-- All the blocks of a chunk (R103 lines 10 to 12, R117): from (SLICE, j) the engine folds the sliced blocks
from `j` on, and the synthetic block where one is pending, into the hash state in order, and asks for the next
chunk with `RD_REQ C`. The interface as a list of headers is the model's choice (log 9). -/
def Obligations.ChunkIsFoldedIntoTheHash : Prop :=
  ∀ s : State, s.resetIn = false → s.phase = .slice → s.pos = .first → s.j < s.nblk →
    64 * s.nblk ≤ s.cfg.capacity → Written s.cbuf (64 * s.nblk) →
    ∃ k t, runSteps k s = .next t ∧ t.phase = .fill ∧ AtBoundary t ∧
      t.outbox = s.outbox ++ [headerBits 0x21 (BitVec.ofNat 64 s.cfg.capacity)] ∧
      t.h = (remainingBlocks s ++ (if s.synthPending then
        [syntheticBlock s.markerEmitted s.lenSuffix] else [])).foldl hashBlock s.h ∧
      t.synthPending = false ∧ t.markerEmitted = (s.markerEmitted || s.synthPending) ∧
      t = { s with h := t.h, v := t.v, w := t.w, blk := t.blk, markerEmitted := t.markerEmitted,
                   synthPending := t.synthPending, phase := t.phase, j := t.j, t := t.t,
                   pos := t.pos, outbox := t.outbox } ∧ SameBytes s t

/-! ### The machine -/

/-- A transaction that has arrived is run at a boundary: the step takes its bytes off the interface and is
`exec` of it (R16, R74, R77). The interface as a string of bytes is the model's (log 6). -/
def Obligations.StepRunsTheTransaction : Prop :=
  ∀ (s : State) (i : Instr) (rest : List Byte), s.resetIn = false → AtBoundary s →
    decode s.inbox = .ok (i, rest) → incomingOp i = true →
    step s = exec i { s with inbox := rest }

/-- An operation the sequencer has issued is run: the step is `exec` of it, and where that goes on, the
sequencer moves on (R117). That a step is one issued operation, where a row of R117 runs up to three, is the
model's choice (log 4); a notification is issued only where one has been placed (log 16). -/
def Obligations.StepRunsTheIssuedOperation : Prop :=
  ∀ (s : State) (i : Instr) (rest : List Byte), s.resetIn = false → issue s ≠ [] →
    decode (issue s) = .ok (i, rest) →
    (∀ t, exec i s = .next t → step s = .next (advance i t)) ∧
    (∀ x, exec i s = .fault x → step s = .fault x) ∧
    (∀ x, exec i s = .refused x → step s = .refused x)

/-- A word placed for the next step is the operation the next step runs (the model's placement, log 16). -/
def Obligations.PlacedWordIsRunNext : Prop :=
  ∀ (s : State) (nbits w : Nat) (i : Instr), decodeTableWord nbits w = some i →
    ∃ s', fetch (s.withFetchWord nbits w) = .run i s'

/-- With nothing to do the engine waits and its state does not change: no transaction, or only the beginning of
one, has arrived (R17, R60, R230; log 7). -/
def Obligations.EngineWaitsForAWholeTransaction : Prop :=
  ∀ (s : State) (i : Instr), s.resetIn = false → AtBoundary s →
    incomingOp i = true → i.WellFormed → s.inbox <+: encode i → s.inbox ≠ encode i →
    step s = .next s

/-- Between the operations of one transaction nothing is taken off the incoming interface, and what has been
emitted stays emitted (R16, R59). The two interfaces as strings are the model's (log 6, log 9). -/
def Obligations.OperationsAreUninterrupted : Prop :=
  ∀ s t : State, step s = .next t →
    (issue s ≠ [] → t.inbox = s.inbox) ∧ t.inbox <:+ s.inbox ∧ s.outbox <+: t.outbox

/-- The reset event puts the state at the values R38 gives, whatever the engine was doing, and keeps the
instance (R230, R34); that the registers it leaves unspecified take the values of log 11 and the interfaces
keep their contents (log 10) is the model's choice. -/
def Obligations.ResetEventFromAnyState : Prop :=
  ∀ s : State, s.resetIn = true →
    ∃ t, step s = .next t ∧ t.phase = .idle ∧ t.err = 0 ∧ t.markerEmitted = false ∧
      t.synthPending = false ∧ t.cfg = s.cfg ∧
      t = { State.resetOf s.cfg with inbox := s.inbox, outbox := s.outbox }

/-- What R38 gives for the state after reset, the status outputs with it, and the default parameters (R5,
R6). -/
def Obligations.ResetValues : Prop :=
  State.reset.phase = .idle ∧ State.reset.err = 0 ∧ State.reset.markerEmitted = false ∧
  State.reset.synthPending = false ∧ digestValid State.reset = false ∧
  errorOut State.reset = false ∧ lenReqOut State.reset = false ∧ rdReqOut State.reset = false ∧
  digest State.reset = none ∧ State.reset.cfg.capacity = 2097152 ∧
  State.reset.cfg.maxLen = 4294967296 ∧ State.reset.cfg.Valid

/-- The rows of the transition table for the phases in which blocks are processed (R117), as the sequencer state
after one step, and what it emits; that a step is one operation and `pos` says which comes next (log 4), and the
interface as a list of headers (log 9), is the model's choice. -/
def Obligations.SequencerFollowsItsTable : Prop :=
  ∀ s t : State, s.resetIn = false → step s = .next t →
    (s.phase = .slice → t.phase = .expand ∧ t.j = s.j ∧ t.t = 0 ∧ t.pos = .first) ∧
    (s.phase = .synth → t.phase = .expand ∧ t.j = s.j ∧ t.t = 0 ∧ t.pos = .first) ∧
    (s.phase = .expand → s.pos = .first → s.t.toNat < 63 →
      t.phase = .expand ∧ t.j = s.j ∧ t.t.toNat = s.t.toNat + 1 ∧ t.pos = .first) ∧
    (s.phase = .expand → s.pos = .first → s.t.toNat = 63 →
      t.phase = .expand ∧ t.j = s.j ∧ t.t = s.t ∧ t.pos = .second) ∧
    (s.phase = .expand → s.pos ≠ .first →
      t.phase = .compress ∧ t.j = s.j ∧ t.t = 0 ∧ t.pos = .first) ∧
    (s.phase = .compress → s.pos = .first → s.t.toNat < 63 →
      t.phase = .compress ∧ t.j = s.j ∧ t.t.toNat = s.t.toNat + 1 ∧ t.pos = .first) ∧
    (s.phase = .compress → s.pos = .first → s.t.toNat = 63 →
      t.phase = .compress ∧ t.j = s.j ∧ t.t = s.t ∧ t.pos = .second) ∧
    (s.phase = .compress → s.pos ≠ .first → s.j + 1 < s.nblk →
      t.phase = .slice ∧ t.j = s.j + 1 ∧ t.pos = .first) ∧
    (s.phase = .compress → s.pos ≠ .first → s.j + 1 = s.nblk → s.synthPending = true →
      t.phase = .synth ∧ t.j = s.nblk ∧ t.pos = .first) ∧
    (s.phase = .compress → s.pos ≠ .first → s.j + 1 = s.nblk → s.synthPending = false →
      t.phase = .fill ∧ t.pos = .first ∧
        t.outbox = s.outbox ++ [headerBits 0x21 (BitVec.ofNat 64 s.cfg.capacity)]) ∧
    (s.phase = .compress → s.pos ≠ .first → s.nblk < s.j + 1 → t.phase = .fill ∧ t.pos = .first ∧
      t.outbox = s.outbox ++ [headerBits 0x21 (BitVec.ofNat 64 s.cfg.capacity)])

/-- Each register is written by no operation but the ones the summary of 10_state.md names (R20 to R32; `phase`
by the incoming transactions, beside the sequencer, which is no operation), and the parameters by none (R34).
The outgoing interface is changed by the four notifications, and by the incoming transactions that emit one of them
(R75, R100, R101, R103, R211). The model's choice: that interface is a list of headers (log 9); no
operation changes `inbox` (log 6) or `resetIn` (log 10); no operation changes `t`, and of `j` only `DATA`, so
`START`, `LEN`, the errors and the stop keep these don't-cares (log 5). -/
def Obligations.OnlyTheNamedOperationsWrite : Prop :=
  ∀ (i : Instr) (s t : State), exec i s = .next t →
    t.cfg = s.cfg ∧ t.t = s.t ∧ t.resetIn = s.resetIn ∧ t.inbox = s.inbox ∧
    (t.h ≠ s.h → i = .start ∨ i = .ffwd) ∧
    (t.v ≠ s.v → i = .ldv ∨ ∃ k, i = .round k) ∧
    (t.w ≠ s.w → (∃ k, i = .ldw k) ∨ ∃ k, i = .sched k) ∧
    (t.blk ≠ s.blk → i = .slice ∨ i = .synth) ∧
    (t.cbuf ≠ s.cbuf → (∃ n p, i = .data n p) ∨ i = .mark ∨ i = .zfill ∨ i = .suffix) ∧
    (t.bytesRemaining ≠ s.bytesRemaining → (∃ l, i = .len l) ∨ ∃ n p, i = .data n p) ∧
    (t.lenSuffix ≠ s.lenSuffix → ∃ l, i = .len l) ∧
    (t.markerEmitted ≠ s.markerEmitted → (∃ l, i = .len l) ∨ i = .mark ∨ i = .synth) ∧
    (t.bytesRead ≠ s.bytesRead → ∃ n p, i = .data n p) ∧
    (t.used ≠ s.used → i = .mark) ∧
    (t.nblk ≠ s.nblk ∨ t.j ≠ s.j → ∃ n p, i = .data n p) ∧
    (t.synthPending ≠ s.synthPending → i = .synth ∨ ∃ n p, i = .data n p) ∧
    (t.phase ≠ s.phase → incomingOp i = true) ∧
    (t.err ≠ s.err → i = .start ∨ (∃ l, i = .len l) ∨ i = .lenFail ∨ (∃ n p, i = .data n p) ∨
      i = .rdFail) ∧
    (t.outbox ≠ s.outbox → incomingOp i = true ∨ i = .lenReq ∨ (∃ c, i = .rdReq c) ∨ i = .done ∨
      ∃ e, i = .error e)

/-- Only `LEN`, `LEN_FAIL`, `DATA` and `RD_FAIL` can end a run with an error, and each puts a non-zero code in
`err` when it does (R208, R200, R211). -/
def Obligations.ErrorsComeFromFourTransactions : Prop :=
  ∀ s t : State, step s = .next t → s.phase ≠ .failed → t.phase = .failed →
    t.err ≠ 0 ∧ ∃ i s', fetch s = .run i s' ∧
      ((∃ l, i = .len l) ∨ i = .lenFail ∨ (∃ n p, i = .data n p) ∨ i = .rdFail)

/-- There is no return from an error: a step from FAILED stays there with the same `err`, or is reset, or is the
`START` of a fresh run (R213, R214). -/
def Obligations.FailedEndsTheRun : Prop :=
  ∀ s t : State, step s = .next t → s.phase = .failed →
    (t.phase = .failed ∧ t.err = s.err) ∨
    (s.resetIn = true ∧ t.phase = .idle) ∨
    (∃ s', fetch s = .run .start s' ∧ t.phase = .probe ∧ t.err = 0 ∧ t.h = romIV)

/-- The digest port carries `H`, word 0 in the top bits, while `phase = DONE`, and has no value otherwise; in DONE
it is stable: a step that stays in DONE leaves it as it is (R107, R180, R181). -/
def Obligations.DigestPortCarriesTheHash : Prop :=
  (∀ s : State,
    (s.phase ≠ .done → digest s = none) ∧
    (s.phase = .done → ∃ d, digest s = some d ∧
      (∀ (k : Nat) (hk : k < 8), d.extractLsb' (224 - 32 * k) 32 = s.h[k])) ∧
    (∀ (k : Nat) (hk : k < 8), ((digestBytes s.h).drop (4 * k)).take 4 = bytesBE32 s.h[k]) ∧
    (digestBytes s.h).length = 32) ∧
  (∀ s t : State, step s = .next t → s.phase = .done → t.phase = .done →
    t.h = s.h ∧ digest t = digest s)

/-- `HEX(H)` (R182): 64 characters, character `8k + m` the digit of the nibble `H[k][31-4m : 28-4m]`. -/
def Obligations.HexDigestNibbles : Prop :=
  ∀ h : Vector Word 8, (hexDigest h).length = 64 ∧
    ∀ (k m : Nat) (hk : k < 8), m < 8 → (hexDigest h)[8 * k + m]? =
      ['0', '1', '2', '3', '4', '5', '6', '7', '8', '9', 'a', 'b', 'c', 'd', 'e', 'f'][
        h[k].toNat / 2 ^ (28 - 4 * m) % 16]?

/-- At a transaction boundary `phase_out` is a resting value, and each status bit is 1 exactly in its phase
(R31, R33). -/
def Obligations.StatusOutputsAtBoundaries : Prop :=
  ∀ s : State, AtBoundary s →
    phaseOut s ∈ ([0, 1, 2, 8, 9] : List (BitVec 4)) ∧
    (digestValid s = true ↔ phaseOut s = 8) ∧ (errorOut s = true ↔ phaseOut s = 9) ∧
    (lenReqOut s = true ↔ phaseOut s = 1) ∧ (rdReqOut s = true ↔ phaseOut s = 2)

/-! ### Invariants and runs -/

/-- The invariant holds after reset, for every instance of the spec (R38; the registers R38 leaves unspecified
at the values of log 11). -/
def Obligations.ResetMeetsTheInvariant : Prop :=
  ∀ c : Config, c.Valid → Inv (State.resetOf c)

/-- Every step keeps the invariant (R27, R29 to R31, R64, R110, R117). -/
def Obligations.EveryStepKeepsTheInvariant : Prop :=
  ∀ s t : State, Inv s → step s = .next t → Inv t

/-- Where the invariant holds no step reads an unwritten byte or leaves the buffer (R64, R233). -/
def Obligations.NoStepFaults : Prop := ∀ (s : State) (f : Fault), Inv s → step s ≠ .fault f

/-- Where the invariant holds, every count fits its register: `cw` bits for `bytes_read` and `used`, `cw - 6` for
`nblk` and `j` (R30, R31). -/
def Obligations.CountsFitTheirRegisters : Prop :=
  ∀ s : State, Inv s →
    s.bytesRead < 2 ^ countWidth s.cfg ∧ s.used < 2 ^ countWidth s.cfg ∧
    s.nblk < 2 ^ (countWidth s.cfg - 6) ∧ s.j < 2 ^ (countWidth s.cfg - 6)

/-- Every transaction terminates (R117, R238): where the invariant holds and reset is not applied, the engine
comes to rest after finitely many steps without a further transaction. -/
def Obligations.EveryTransactionTerminates : Prop :=
  ∀ s : State, Inv s → s.resetIn = false →
    ∃ k t, runSteps k s = .next t ∧ AtBoundary t ∧ t.inbox = s.inbox

/-- The padded message (R71): the message, the marker `0x80`, `z = (55 - L) mod 64` zeros, the bit length `8·L`
as eight bytes, most significant first; the length a multiple of 64, cut into `floor((L + 8)/64) + 1` blocks that
hold its bytes in order. -/
def Obligations.PaddedMessageFormat : Prop :=
  ∀ m : List Byte,
    (paddingZeros m.length : Int) = (55 - (m.length : Int)) % 64 ∧
    (padMessage m).length = m.length + 1 + paddingZeros m.length + 8 ∧
    (∀ i < m.length, (padMessage m)[i]? = m[i]?) ∧
    (padMessage m)[m.length]? = some 0x80 ∧
    (∀ i < paddingZeros m.length, (padMessage m)[m.length + 1 + i]? = some 0) ∧
    (∀ k < 8, ((padMessage m)[m.length + 1 + paddingZeros m.length + k]?).map BitVec.toNat =
      some (8 * m.length / 2 ^ (8 * (7 - k)) % 256)) ∧
    (padMessage m).length % 64 = 0 ∧
    (blocksOf (padMessage m)).length = (m.length + 8) / 64 + 1 ∧
    (blocksOf (padMessage m)).flatMap (·.toList) = padMessage m

/-- The answers of a conforming source are those of R121: `q` full chunks, then the rest once if there is one or
the message is empty, then the zero-byte read (R118, R121). -/
def Obligations.ConformingAnswersOfARun : Prop :=
  ∀ (c : Nat) (m : List Byte), 0 < c →
    hashTrace c m = [.start, .len (BitVec.ofNat 64 m.length)] ++
      (List.range (m.length / c)).map (fun i =>
        .data (BitVec.ofNat 64 c) ((m.drop (i * c)).take c)) ++
      (if m.length % c ≠ 0 ∨ m.length = 0 then
        [.data (BitVec.ofNat 64 (m.length % c)) (m.drop (m.length / c * c))] else []) ++
      [.data 0 []]

/-- The engine computes the hash of the message (R120, R36, R121, R231): from any state that accepts `START`,
whatever its registers hold, and for every instance, a conforming run ends in DONE with the hash of the padded
message in `H`, no error, and the requests and the notification of R121 emitted. The interfaces as strings are the model's
(log 6, log 9). -/
def Obligations.RunComputesTheMessageHash : Prop :=
  ∀ (s : State) (m : List Byte), s.cfg.Valid → s.resetIn = false → AtBoundary s →
    acceptsStart s.phase = true → m.length < s.cfg.maxLen →
    s.inbox = traceBytes (hashTrace s.cfg.capacity m) →
    ∃ k t, runSteps k s = .next t ∧ AtBoundary t ∧ t.phase = .done ∧ t.err = 0 ∧
      t.h = messageHash m ∧ digest t = some (digestBits (messageHash m)) ∧ t.inbox = [] ∧
      t.outbox = s.outbox ++ hashOutbox s.cfg.capacity m
end

