-- ==== Sys2Proof/Laws/Decode.lean ====
section
/-! SUPPORT. Byte order there and back, and the pieces of the decoder. -/

namespace Sys2Proof

/-- Eight bytes of a 64-bit value, put together again. -/
theorem be64_extract (v : BitVec 64) :
    be64 (v.extractLsb' 56 8) (v.extractLsb' 48 8) (v.extractLsb' 40 8) (v.extractLsb' 32 8)
      (v.extractLsb' 24 8) (v.extractLsb' 16 8) (v.extractLsb' 8 8) (v.extractLsb' 0 8) = v := by
  apply BitVec.eq_of_getLsbD_eq
  intro i hi
  simp only [be64, BitVec.getLsbD_append, BitVec.getLsbD_extractLsb']
  split_ifs <;> (rw [decide_eq_true (by omega), Bool.true_and]; congr 1; omega)

/-- The bytes of a header, written out. -/
theorem headerBytes_append (code : Byte) (arg : BitVec 64) (rest : List Byte) :
    headerBytes code arg ++ rest =
      code :: arg.extractLsb' 56 8 :: arg.extractLsb' 48 8 :: arg.extractLsb' 40 8 ::
        arg.extractLsb' 32 8 :: arg.extractLsb' 24 8 :: arg.extractLsb' 16 8 ::
        arg.extractLsb' 8 8 :: arg.extractLsb' 0 8 :: rest := rfl

/-- A header of an assigned T or Q code is read whole. -/
theorem decode_headerBytes (code : Byte) (arg : BitVec 64) (rest : List Byte)
    (hu : uopCode code = false) (hc : (incomingCode code || outgoingCode code) = true) :
    decode (headerBytes code arg ++ rest) = decodeHeader code arg rest := by
  rw [headerBytes_append]
  simp only [decode, hu, hc, Bool.false_eq_true, if_false, if_true, be64_extract]

/-- The index field of a format U word, there and back. -/
theorem uop_index (idx : BitVec 6) : ((idx.setWidth 8).setWidth 6 : BitVec 6) = idx := by
  revert idx
  decide

/-- A format U word's two bytes are read whole. -/
theorem decode_uopBytes (uop : Byte) (idx : BitVec 6) (rest : List Byte) (hu : uopCode uop = true) :
    decode (uopBytes uop idx ++ rest) =
      (decodeUop uop (idx.setWidth 8)).map fun i => (i, rest) := by
  simp only [uopBytes, List.cons_append, List.nil_append, decode, hu, if_true]

end Sys2Proof
end

