-- ==== Sys2Proof/Laws/Memory.lean ====
section
/-! SUPPORT. The chunk buffer: a read after a write, the canonical form, the bounds. -/

namespace Sys2Proof.Machine

@[simp] theorem readByte_nil (a : Nat) : readByte [] a = none := rfl

theorem readByte_append (m n : Memory) (a : Nat) :
    readByte (m ++ n) a = (readByte m a).or (readByte n a) := by
  induction m with
  | nil => simp
  | cons c m ih =>
    obtain ⟨k, b⟩ := c
    by_cases h : k = a <;> simp [readByte, h, ih]

theorem readByte_filter (p : Nat → Bool) (m : Memory) (a : Nat) :
    readByte (m.filter fun c => p c.1) a = if p a then readByte m a else none := by
  induction m with
  | nil => simp
  | cons c m ih =>
    obtain ⟨k, b⟩ := c
    by_cases hk : p k <;> by_cases h : k = a <;> simp_all [readByte]

theorem readByte_cellsFrom (k : Nat) (bs : List Byte) (a : Nat) :
    readByte (cellsFrom k bs) a = if k ≤ a then bs[a - k]? else none := by
  induction bs generalizing k with
  | nil => simp [cellsFrom]
  | cons b bs ih =>
    rw [cellsFrom, readByte, ih]
    rcases Nat.lt_trichotomy k a with h | rfl | h
    · obtain ⟨d, rfl⟩ : ∃ d, a = k + 1 + d := ⟨a - k - 1, by omega⟩
      rw [if_neg (by omega), if_pos (by omega), if_pos (by omega),
        show k + 1 + d - k = d + 1 by omega, show k + 1 + d - (k + 1) = d by omega,
        List.getElem?_cons_succ]
    · simp
    · rw [if_neg (by omega), if_neg (by omega), if_neg (by omega)]

/-- What a byte reads as after a write: the string inside it, the old byte outside it. -/
theorem readByte_writeBytes (m : Memory) (k : Nat) (bs : List Byte) (a : Nat) :
    readByte (writeBytes m k bs) a =
      if k ≤ a ∧ a < k + bs.length then bs[a - k]? else readByte m a := by
  rw [writeBytes, readByte_append, readByte_append,
    readByte_filter (fun x => decide (x < k)), readByte_cellsFrom,
    readByte_filter (fun x => decide (k + bs.length ≤ x))]
  rcases Nat.lt_or_ge a k with h | h
  · rw [if_pos (by simpa using h), if_neg (by omega), if_neg (by simp; omega), if_neg (by omega)]
    simp
  · rw [if_neg (by simpa using h), if_pos h]
    rcases Nat.lt_or_ge a (k + bs.length) with h' | h'
    · have hl : a - k < bs.length := by omega
      rw [if_neg (by simpa using h'), if_pos ⟨h, h'⟩]
      simp [List.getElem?_eq_getElem hl]
    · rw [if_pos (by simpa using h'), if_neg (by omega), List.getElem?_eq_none (by omega)]
      simp

theorem readByte_writeBytes_outside (m : Memory) (k : Nat) (bs : List Byte) (a : Nat)
    (h : a < k ∨ k + bs.length ≤ a) : readByte (writeBytes m k bs) a = readByte m a := by
  rw [readByte_writeBytes, if_neg (by omega)]

theorem mem_cellsFrom {k : Nat} {bs : List Byte} {c : Host.Cell} (h : c ∈ cellsFrom k bs) :
    k ≤ c.1 ∧ c.1 < k + bs.length := by
  induction bs generalizing k with
  | nil => simp [cellsFrom] at h
  | cons b bs ih =>
    rcases List.mem_cons.1 h with rfl | h
    · simp
    · have := ih h
      simp only [List.length_cons]
      omega

theorem cellsFrom_wf (k : Nat) (bs : List Byte) : Memory.wf (cellsFrom k bs) := by
  induction bs generalizing k with
  | nil => exact List.Pairwise.nil
  | cons b bs ih =>
    refine List.Pairwise.cons (fun c hc => ?_) (ih (k + 1))
    have := mem_cellsFrom hc
    simp only
    omega

/-- A write keeps the canonical form. -/
theorem writeBytes_wf {m : Memory} (hm : Memory.wf m) (k : Nat) (bs : List Byte) :
    Memory.wf (writeBytes m k bs) := by
  refine List.pairwise_append.2 ⟨List.pairwise_append.2 ⟨hm.filter _, cellsFrom_wf k bs, ?_⟩,
    hm.filter _, ?_⟩
  · intro x hx y hy
    have h1 := (List.mem_filter.1 hx).2
    have h2 := mem_cellsFrom hy
    simp only [decide_eq_true_eq] at h1
    omega
  · intro x hx y hy
    have h2 := (List.mem_filter.1 hy).2
    simp only [decide_eq_true_eq] at h2
    rcases List.mem_append.1 hx with hx | hx
    · have h1 := (List.mem_filter.1 hx).2
      simp only [decide_eq_true_eq] at h1
      omega
    · have h1 := mem_cellsFrom hx
      omega

/-- A cell after a write was there before or lies in the written string. -/
theorem mem_writeBytes {m : Memory} {k : Nat} {bs : List Byte} {c : Host.Cell}
    (h : c ∈ writeBytes m k bs) : c ∈ m ∨ (k ≤ c.1 ∧ c.1 < k + bs.length) := by
  rcases List.mem_append.1 h with h | h
  · rcases List.mem_append.1 h with h | h
    · exact .inl (List.mem_filter.1 h).1
    · exact .inr (mem_cellsFrom h)
  · exact .inl (List.mem_filter.1 h).1

/-- There is no unwritten offset among the 64 from `k` exactly when all are written. -/
theorem firstUnwritten_eq_none {m : Memory} {k : Nat} :
    firstUnwritten m k = none ↔ ∀ i < 64, (readByte m (k + i)).isSome = true := by
  simp [firstUnwritten, Option.isSome_iff_ne_none]

theorem blockAt_getElem (m : Memory) (k i : Nat) (hi : i < 64) :
    (blockAt m k)[i] = (readByte m (k + i)).getD 0 := by
  simp [blockAt]

end Sys2Proof.Machine
end

