-- ==== Sys2Proof/Laws/State.lean ====
section
/-! SUPPORT. What each named update of the state writes and leaves: one lemma per field per update. -/

namespace Sys2Proof.Machine

/-! ### `enterResting` -/

@[simp] theorem enterResting_cfg (p : Phase) (s : State) :
    (enterResting p s).cfg = s.cfg := rfl
@[simp] theorem enterResting_h (p : Phase) (s : State) :
    (enterResting p s).h = s.h := rfl
@[simp] theorem enterResting_v (p : Phase) (s : State) :
    (enterResting p s).v = s.v := rfl
@[simp] theorem enterResting_w (p : Phase) (s : State) :
    (enterResting p s).w = s.w := rfl
@[simp] theorem enterResting_blk (p : Phase) (s : State) :
    (enterResting p s).blk = s.blk := rfl
@[simp] theorem enterResting_cbuf (p : Phase) (s : State) :
    (enterResting p s).cbuf = s.cbuf := rfl
@[simp] theorem enterResting_bytesRemaining (p : Phase) (s : State) :
    (enterResting p s).bytesRemaining = s.bytesRemaining := rfl
@[simp] theorem enterResting_lenSuffix (p : Phase) (s : State) :
    (enterResting p s).lenSuffix = s.lenSuffix := rfl
@[simp] theorem enterResting_markerEmitted (p : Phase) (s : State) :
    (enterResting p s).markerEmitted = s.markerEmitted := rfl
@[simp] theorem enterResting_bytesRead (p : Phase) (s : State) :
    (enterResting p s).bytesRead = s.bytesRead := rfl
@[simp] theorem enterResting_used (p : Phase) (s : State) :
    (enterResting p s).used = s.used := rfl
@[simp] theorem enterResting_nblk (p : Phase) (s : State) :
    (enterResting p s).nblk = s.nblk := rfl
@[simp] theorem enterResting_synthPending (p : Phase) (s : State) :
    (enterResting p s).synthPending = s.synthPending := rfl
@[simp] theorem enterResting_phase (p : Phase) (s : State) :
    (enterResting p s).phase = p := rfl
@[simp] theorem enterResting_j (p : Phase) (s : State) :
    (enterResting p s).j = s.j := rfl
@[simp] theorem enterResting_t (p : Phase) (s : State) :
    (enterResting p s).t = s.t := rfl
@[simp] theorem enterResting_err (p : Phase) (s : State) :
    (enterResting p s).err = s.err := rfl
@[simp] theorem enterResting_pos (p : Phase) (s : State) :
    (enterResting p s).pos = .first := rfl
@[simp] theorem enterResting_resetIn (p : Phase) (s : State) :
    (enterResting p s).resetIn = s.resetIn := rfl
@[simp] theorem enterResting_inbox (p : Phase) (s : State) :
    (enterResting p s).inbox = s.inbox := rfl
@[simp] theorem enterResting_outbox (p : Phase) (s : State) :
    (enterResting p s).outbox = s.outbox ++ entryHeaders p s := rfl

/-! ### `emit` -/

@[simp] theorem emit_cfg (header : BitVec 72) (s : State) :
    (emit header s).cfg = s.cfg := rfl
@[simp] theorem emit_h (header : BitVec 72) (s : State) :
    (emit header s).h = s.h := rfl
@[simp] theorem emit_v (header : BitVec 72) (s : State) :
    (emit header s).v = s.v := rfl
@[simp] theorem emit_w (header : BitVec 72) (s : State) :
    (emit header s).w = s.w := rfl
@[simp] theorem emit_blk (header : BitVec 72) (s : State) :
    (emit header s).blk = s.blk := rfl
@[simp] theorem emit_cbuf (header : BitVec 72) (s : State) :
    (emit header s).cbuf = s.cbuf := rfl
@[simp] theorem emit_bytesRemaining (header : BitVec 72) (s : State) :
    (emit header s).bytesRemaining = s.bytesRemaining := rfl
@[simp] theorem emit_lenSuffix (header : BitVec 72) (s : State) :
    (emit header s).lenSuffix = s.lenSuffix := rfl
@[simp] theorem emit_markerEmitted (header : BitVec 72) (s : State) :
    (emit header s).markerEmitted = s.markerEmitted := rfl
@[simp] theorem emit_bytesRead (header : BitVec 72) (s : State) :
    (emit header s).bytesRead = s.bytesRead := rfl
@[simp] theorem emit_used (header : BitVec 72) (s : State) :
    (emit header s).used = s.used := rfl
@[simp] theorem emit_nblk (header : BitVec 72) (s : State) :
    (emit header s).nblk = s.nblk := rfl
@[simp] theorem emit_synthPending (header : BitVec 72) (s : State) :
    (emit header s).synthPending = s.synthPending := rfl
@[simp] theorem emit_phase (header : BitVec 72) (s : State) :
    (emit header s).phase = s.phase := rfl
@[simp] theorem emit_j (header : BitVec 72) (s : State) :
    (emit header s).j = s.j := rfl
@[simp] theorem emit_t (header : BitVec 72) (s : State) :
    (emit header s).t = s.t := rfl
@[simp] theorem emit_err (header : BitVec 72) (s : State) :
    (emit header s).err = s.err := rfl
@[simp] theorem emit_pos (header : BitVec 72) (s : State) :
    (emit header s).pos = s.pos := rfl
@[simp] theorem emit_resetIn (header : BitVec 72) (s : State) :
    (emit header s).resetIn = s.resetIn := rfl
@[simp] theorem emit_inbox (header : BitVec 72) (s : State) :
    (emit header s).inbox = s.inbox := rfl
@[simp] theorem emit_outbox (header : BitVec 72) (s : State) :
    (emit header s).outbox = s.outbox ++ [header] := rfl

/-! ### `raiseError` -/

@[simp] theorem raiseError_cfg (e : ErrorKind) (s : State) :
    (raiseError e s).cfg = s.cfg := rfl
@[simp] theorem raiseError_h (e : ErrorKind) (s : State) :
    (raiseError e s).h = s.h := rfl
@[simp] theorem raiseError_v (e : ErrorKind) (s : State) :
    (raiseError e s).v = s.v := rfl
@[simp] theorem raiseError_w (e : ErrorKind) (s : State) :
    (raiseError e s).w = s.w := rfl
@[simp] theorem raiseError_blk (e : ErrorKind) (s : State) :
    (raiseError e s).blk = s.blk := rfl
@[simp] theorem raiseError_cbuf (e : ErrorKind) (s : State) :
    (raiseError e s).cbuf = s.cbuf := rfl
@[simp] theorem raiseError_bytesRemaining (e : ErrorKind) (s : State) :
    (raiseError e s).bytesRemaining = s.bytesRemaining := rfl
@[simp] theorem raiseError_lenSuffix (e : ErrorKind) (s : State) :
    (raiseError e s).lenSuffix = s.lenSuffix := rfl
@[simp] theorem raiseError_markerEmitted (e : ErrorKind) (s : State) :
    (raiseError e s).markerEmitted = s.markerEmitted := rfl
@[simp] theorem raiseError_bytesRead (e : ErrorKind) (s : State) :
    (raiseError e s).bytesRead = s.bytesRead := rfl
@[simp] theorem raiseError_used (e : ErrorKind) (s : State) :
    (raiseError e s).used = s.used := rfl
@[simp] theorem raiseError_nblk (e : ErrorKind) (s : State) :
    (raiseError e s).nblk = s.nblk := rfl
@[simp] theorem raiseError_synthPending (e : ErrorKind) (s : State) :
    (raiseError e s).synthPending = s.synthPending := rfl
@[simp] theorem raiseError_phase (e : ErrorKind) (s : State) :
    (raiseError e s).phase = .failed := rfl
@[simp] theorem raiseError_j (e : ErrorKind) (s : State) :
    (raiseError e s).j = s.j := rfl
@[simp] theorem raiseError_t (e : ErrorKind) (s : State) :
    (raiseError e s).t = s.t := rfl
@[simp] theorem raiseError_err (e : ErrorKind) (s : State) :
    (raiseError e s).err = errorCode e := rfl
@[simp] theorem raiseError_pos (e : ErrorKind) (s : State) :
    (raiseError e s).pos = .first := rfl
@[simp] theorem raiseError_resetIn (e : ErrorKind) (s : State) :
    (raiseError e s).resetIn = s.resetIn := rfl
@[simp] theorem raiseError_inbox (e : ErrorKind) (s : State) :
    (raiseError e s).inbox = s.inbox := rfl
@[simp] theorem raiseError_outbox (e : ErrorKind) (s : State) :
    (raiseError e s).outbox = s.outbox ++ [errorHeader (errorCode e)] := rfl

/-! ### `setMarker` -/

@[simp] theorem setMarker_cfg (s : State) :
    (setMarker s).cfg = s.cfg := rfl
@[simp] theorem setMarker_h (s : State) :
    (setMarker s).h = s.h := rfl
@[simp] theorem setMarker_v (s : State) :
    (setMarker s).v = s.v := rfl
@[simp] theorem setMarker_w (s : State) :
    (setMarker s).w = s.w := rfl
@[simp] theorem setMarker_blk (s : State) :
    (setMarker s).blk = s.blk := rfl
@[simp] theorem setMarker_cbuf (s : State) :
    (setMarker s).cbuf = s.cbuf := rfl
@[simp] theorem setMarker_bytesRemaining (s : State) :
    (setMarker s).bytesRemaining = s.bytesRemaining := rfl
@[simp] theorem setMarker_lenSuffix (s : State) :
    (setMarker s).lenSuffix = s.lenSuffix := rfl
@[simp] theorem setMarker_markerEmitted (s : State) :
    (setMarker s).markerEmitted = true := rfl
@[simp] theorem setMarker_bytesRead (s : State) :
    (setMarker s).bytesRead = s.bytesRead := rfl
@[simp] theorem setMarker_used (s : State) :
    (setMarker s).used = s.used := rfl
@[simp] theorem setMarker_nblk (s : State) :
    (setMarker s).nblk = s.nblk := rfl
@[simp] theorem setMarker_synthPending (s : State) :
    (setMarker s).synthPending = s.synthPending := rfl
@[simp] theorem setMarker_phase (s : State) :
    (setMarker s).phase = s.phase := rfl
@[simp] theorem setMarker_j (s : State) :
    (setMarker s).j = s.j := rfl
@[simp] theorem setMarker_t (s : State) :
    (setMarker s).t = s.t := rfl
@[simp] theorem setMarker_err (s : State) :
    (setMarker s).err = s.err := rfl
@[simp] theorem setMarker_pos (s : State) :
    (setMarker s).pos = s.pos := rfl
@[simp] theorem setMarker_resetIn (s : State) :
    (setMarker s).resetIn = s.resetIn := rfl
@[simp] theorem setMarker_inbox (s : State) :
    (setMarker s).inbox = s.inbox := rfl
@[simp] theorem setMarker_outbox (s : State) :
    (setMarker s).outbox = s.outbox := rfl

/-! ### `clearMarker` -/

@[simp] theorem clearMarker_cfg (s : State) :
    (clearMarker s).cfg = s.cfg := rfl
@[simp] theorem clearMarker_h (s : State) :
    (clearMarker s).h = s.h := rfl
@[simp] theorem clearMarker_v (s : State) :
    (clearMarker s).v = s.v := rfl
@[simp] theorem clearMarker_w (s : State) :
    (clearMarker s).w = s.w := rfl
@[simp] theorem clearMarker_blk (s : State) :
    (clearMarker s).blk = s.blk := rfl
@[simp] theorem clearMarker_cbuf (s : State) :
    (clearMarker s).cbuf = s.cbuf := rfl
@[simp] theorem clearMarker_bytesRemaining (s : State) :
    (clearMarker s).bytesRemaining = s.bytesRemaining := rfl
@[simp] theorem clearMarker_lenSuffix (s : State) :
    (clearMarker s).lenSuffix = s.lenSuffix := rfl
@[simp] theorem clearMarker_markerEmitted (s : State) :
    (clearMarker s).markerEmitted = false := rfl
@[simp] theorem clearMarker_bytesRead (s : State) :
    (clearMarker s).bytesRead = s.bytesRead := rfl
@[simp] theorem clearMarker_used (s : State) :
    (clearMarker s).used = s.used := rfl
@[simp] theorem clearMarker_nblk (s : State) :
    (clearMarker s).nblk = s.nblk := rfl
@[simp] theorem clearMarker_synthPending (s : State) :
    (clearMarker s).synthPending = s.synthPending := rfl
@[simp] theorem clearMarker_phase (s : State) :
    (clearMarker s).phase = s.phase := rfl
@[simp] theorem clearMarker_j (s : State) :
    (clearMarker s).j = s.j := rfl
@[simp] theorem clearMarker_t (s : State) :
    (clearMarker s).t = s.t := rfl
@[simp] theorem clearMarker_err (s : State) :
    (clearMarker s).err = s.err := rfl
@[simp] theorem clearMarker_pos (s : State) :
    (clearMarker s).pos = s.pos := rfl
@[simp] theorem clearMarker_resetIn (s : State) :
    (clearMarker s).resetIn = s.resetIn := rfl
@[simp] theorem clearMarker_inbox (s : State) :
    (clearMarker s).inbox = s.inbox := rfl
@[simp] theorem clearMarker_outbox (s : State) :
    (clearMarker s).outbox = s.outbox := rfl

/-! ### `planFullChunk` -/

@[simp] theorem planFullChunk_cfg (s : State) :
    (planFullChunk s).cfg = s.cfg := rfl
@[simp] theorem planFullChunk_h (s : State) :
    (planFullChunk s).h = s.h := rfl
@[simp] theorem planFullChunk_v (s : State) :
    (planFullChunk s).v = s.v := rfl
@[simp] theorem planFullChunk_w (s : State) :
    (planFullChunk s).w = s.w := rfl
@[simp] theorem planFullChunk_blk (s : State) :
    (planFullChunk s).blk = s.blk := rfl
@[simp] theorem planFullChunk_cbuf (s : State) :
    (planFullChunk s).cbuf = s.cbuf := rfl
@[simp] theorem planFullChunk_bytesRemaining (s : State) :
    (planFullChunk s).bytesRemaining = s.bytesRemaining := rfl
@[simp] theorem planFullChunk_lenSuffix (s : State) :
    (planFullChunk s).lenSuffix = s.lenSuffix := rfl
@[simp] theorem planFullChunk_markerEmitted (s : State) :
    (planFullChunk s).markerEmitted = s.markerEmitted := rfl
@[simp] theorem planFullChunk_bytesRead (s : State) :
    (planFullChunk s).bytesRead = s.bytesRead := rfl
@[simp] theorem planFullChunk_used (s : State) :
    (planFullChunk s).used = s.used := rfl
@[simp] theorem planFullChunk_nblk (s : State) :
    (planFullChunk s).nblk = s.cfg.capacity / 64 := rfl
@[simp] theorem planFullChunk_synthPending (s : State) :
    (planFullChunk s).synthPending = (s.bytesRemaining == 0) := rfl
@[simp] theorem planFullChunk_phase (s : State) :
    (planFullChunk s).phase = s.phase := rfl
@[simp] theorem planFullChunk_j (s : State) :
    (planFullChunk s).j = s.j := rfl
@[simp] theorem planFullChunk_t (s : State) :
    (planFullChunk s).t = s.t := rfl
@[simp] theorem planFullChunk_err (s : State) :
    (planFullChunk s).err = s.err := rfl
@[simp] theorem planFullChunk_pos (s : State) :
    (planFullChunk s).pos = s.pos := rfl
@[simp] theorem planFullChunk_resetIn (s : State) :
    (planFullChunk s).resetIn = s.resetIn := rfl
@[simp] theorem planFullChunk_inbox (s : State) :
    (planFullChunk s).inbox = s.inbox := rfl
@[simp] theorem planFullChunk_outbox (s : State) :
    (planFullChunk s).outbox = s.outbox := rfl

/-! ### `startSlicing` -/

@[simp] theorem startSlicing_cfg (s : State) :
    (startSlicing s).cfg = s.cfg := rfl
@[simp] theorem startSlicing_h (s : State) :
    (startSlicing s).h = s.h := rfl
@[simp] theorem startSlicing_v (s : State) :
    (startSlicing s).v = s.v := rfl
@[simp] theorem startSlicing_w (s : State) :
    (startSlicing s).w = s.w := rfl
@[simp] theorem startSlicing_blk (s : State) :
    (startSlicing s).blk = s.blk := rfl
@[simp] theorem startSlicing_cbuf (s : State) :
    (startSlicing s).cbuf = s.cbuf := rfl
@[simp] theorem startSlicing_bytesRemaining (s : State) :
    (startSlicing s).bytesRemaining = s.bytesRemaining := rfl
@[simp] theorem startSlicing_lenSuffix (s : State) :
    (startSlicing s).lenSuffix = s.lenSuffix := rfl
@[simp] theorem startSlicing_markerEmitted (s : State) :
    (startSlicing s).markerEmitted = s.markerEmitted := rfl
@[simp] theorem startSlicing_bytesRead (s : State) :
    (startSlicing s).bytesRead = s.bytesRead := rfl
@[simp] theorem startSlicing_used (s : State) :
    (startSlicing s).used = s.used := rfl
@[simp] theorem startSlicing_nblk (s : State) :
    (startSlicing s).nblk = s.nblk := rfl
@[simp] theorem startSlicing_synthPending (s : State) :
    (startSlicing s).synthPending = s.synthPending := rfl
@[simp] theorem startSlicing_phase (s : State) :
    (startSlicing s).phase = .slice := rfl
@[simp] theorem startSlicing_j (s : State) :
    (startSlicing s).j = 0 := rfl
@[simp] theorem startSlicing_t (s : State) :
    (startSlicing s).t = s.t := rfl
@[simp] theorem startSlicing_err (s : State) :
    (startSlicing s).err = s.err := rfl
@[simp] theorem startSlicing_pos (s : State) :
    (startSlicing s).pos = .first := rfl
@[simp] theorem startSlicing_resetIn (s : State) :
    (startSlicing s).resetIn = s.resetIn := rfl
@[simp] theorem startSlicing_inbox (s : State) :
    (startSlicing s).inbox = s.inbox := rfl
@[simp] theorem startSlicing_outbox (s : State) :
    (startSlicing s).outbox = s.outbox := rfl

/-! ### `startExpand` -/

@[simp] theorem startExpand_cfg (s : State) :
    (startExpand s).cfg = s.cfg := rfl
@[simp] theorem startExpand_h (s : State) :
    (startExpand s).h = s.h := rfl
@[simp] theorem startExpand_v (s : State) :
    (startExpand s).v = s.v := rfl
@[simp] theorem startExpand_w (s : State) :
    (startExpand s).w = s.w := rfl
@[simp] theorem startExpand_blk (s : State) :
    (startExpand s).blk = s.blk := rfl
@[simp] theorem startExpand_cbuf (s : State) :
    (startExpand s).cbuf = s.cbuf := rfl
@[simp] theorem startExpand_bytesRemaining (s : State) :
    (startExpand s).bytesRemaining = s.bytesRemaining := rfl
@[simp] theorem startExpand_lenSuffix (s : State) :
    (startExpand s).lenSuffix = s.lenSuffix := rfl
@[simp] theorem startExpand_markerEmitted (s : State) :
    (startExpand s).markerEmitted = s.markerEmitted := rfl
@[simp] theorem startExpand_bytesRead (s : State) :
    (startExpand s).bytesRead = s.bytesRead := rfl
@[simp] theorem startExpand_used (s : State) :
    (startExpand s).used = s.used := rfl
@[simp] theorem startExpand_nblk (s : State) :
    (startExpand s).nblk = s.nblk := rfl
@[simp] theorem startExpand_synthPending (s : State) :
    (startExpand s).synthPending = s.synthPending := rfl
@[simp] theorem startExpand_phase (s : State) :
    (startExpand s).phase = .expand := rfl
@[simp] theorem startExpand_j (s : State) :
    (startExpand s).j = s.j := rfl
@[simp] theorem startExpand_t (s : State) :
    (startExpand s).t = 0 := rfl
@[simp] theorem startExpand_err (s : State) :
    (startExpand s).err = s.err := rfl
@[simp] theorem startExpand_pos (s : State) :
    (startExpand s).pos = .first := rfl
@[simp] theorem startExpand_resetIn (s : State) :
    (startExpand s).resetIn = s.resetIn := rfl
@[simp] theorem startExpand_inbox (s : State) :
    (startExpand s).inbox = s.inbox := rfl
@[simp] theorem startExpand_outbox (s : State) :
    (startExpand s).outbox = s.outbox := rfl

/-! ### `afterSuffix` -/

@[simp] theorem afterSuffix_cfg (s : State) :
    (afterSuffix s).cfg = s.cfg := rfl
@[simp] theorem afterSuffix_h (s : State) :
    (afterSuffix s).h = s.h := rfl
@[simp] theorem afterSuffix_v (s : State) :
    (afterSuffix s).v = s.v := rfl
@[simp] theorem afterSuffix_w (s : State) :
    (afterSuffix s).w = s.w := rfl
@[simp] theorem afterSuffix_blk (s : State) :
    (afterSuffix s).blk = s.blk := rfl
@[simp] theorem afterSuffix_cbuf (s : State) :
    (afterSuffix s).cbuf = s.cbuf := rfl
@[simp] theorem afterSuffix_bytesRemaining (s : State) :
    (afterSuffix s).bytesRemaining = s.bytesRemaining := rfl
@[simp] theorem afterSuffix_lenSuffix (s : State) :
    (afterSuffix s).lenSuffix = s.lenSuffix := rfl
@[simp] theorem afterSuffix_markerEmitted (s : State) :
    (afterSuffix s).markerEmitted = s.markerEmitted := rfl
@[simp] theorem afterSuffix_bytesRead (s : State) :
    (afterSuffix s).bytesRead = s.bytesRead := rfl
@[simp] theorem afterSuffix_used (s : State) :
    (afterSuffix s).used = s.used := rfl
@[simp] theorem afterSuffix_nblk (s : State) :
    (afterSuffix s).nblk = fittingBlocks s := rfl
@[simp] theorem afterSuffix_synthPending (s : State) :
    (afterSuffix s).synthPending = false := rfl
@[simp] theorem afterSuffix_phase (s : State) :
    (afterSuffix s).phase = .slice := rfl
@[simp] theorem afterSuffix_j (s : State) :
    (afterSuffix s).j = 0 := rfl
@[simp] theorem afterSuffix_t (s : State) :
    (afterSuffix s).t = s.t := rfl
@[simp] theorem afterSuffix_err (s : State) :
    (afterSuffix s).err = s.err := rfl
@[simp] theorem afterSuffix_pos (s : State) :
    (afterSuffix s).pos = .first := rfl
@[simp] theorem afterSuffix_resetIn (s : State) :
    (afterSuffix s).resetIn = s.resetIn := rfl
@[simp] theorem afterSuffix_inbox (s : State) :
    (afterSuffix s).inbox = s.inbox := rfl
@[simp] theorem afterSuffix_outbox (s : State) :
    (afterSuffix s).outbox = s.outbox := rfl

/-! ### What entering a phase emits -/

@[simp] theorem entryHeaders_probe (s : State) : entryHeaders .probe s = [headerBits 0x20 0] := rfl
@[simp] theorem entryHeaders_fill (s : State) :
    entryHeaders .fill s = [headerBits 0x21 (BitVec.ofNat 64 s.cfg.capacity)] := rfl
@[simp] theorem entryHeaders_done (s : State) : entryHeaders .done s = [headerBits 0x28 0] := rfl
@[simp] theorem entryHeaders_failed (s : State) :
    entryHeaders .failed s = [headerBits 0x29 (s.err.setWidth 64)] := rfl
@[simp] theorem entryHeaders_idle (s : State) : entryHeaders .idle s = [] := rfl

/-- Entering a transient phase emits nothing. -/
theorem entryHeaders_transient {p : Phase} (h : restingPhase p = false) (s : State) :
    entryHeaders p s = [] := by
  cases p <;> first | rfl | (cases h)

/-- What is emitted depends on the parameters and `err` only. -/
theorem entryHeaders_congr (p : Phase) {s t : State} (hc : s.cfg = t.cfg) (he : s.err = t.err) :
    entryHeaders p s = entryHeaders p t := by
  cases p <;> simp only [entryHeaders, hc, he]

/-! ### The state after reset, and the reset event -/

@[simp] theorem resetOf_cfg (c : Config) : (State.resetOf c).cfg = c := rfl
@[simp] theorem resetOf_h (c : Config) : (State.resetOf c).h = Vector.replicate 8 0 := rfl
@[simp] theorem resetOf_v (c : Config) : (State.resetOf c).v = Vector.replicate 8 0 := rfl
@[simp] theorem resetOf_w (c : Config) : (State.resetOf c).w = Vector.replicate 64 0 := rfl
@[simp] theorem resetOf_blk (c : Config) : (State.resetOf c).blk = Vector.replicate 64 0 := rfl
@[simp] theorem resetOf_cbuf (c : Config) : (State.resetOf c).cbuf = [] := rfl
@[simp] theorem resetOf_bytesRemaining (c : Config) : (State.resetOf c).bytesRemaining = 0 := rfl
@[simp] theorem resetOf_lenSuffix (c : Config) : (State.resetOf c).lenSuffix = Vector.replicate 8 0 := rfl
@[simp] theorem resetOf_markerEmitted (c : Config) : (State.resetOf c).markerEmitted = false := rfl
@[simp] theorem resetOf_bytesRead (c : Config) : (State.resetOf c).bytesRead = 0 := rfl
@[simp] theorem resetOf_used (c : Config) : (State.resetOf c).used = 0 := rfl
@[simp] theorem resetOf_nblk (c : Config) : (State.resetOf c).nblk = 0 := rfl
@[simp] theorem resetOf_synthPending (c : Config) : (State.resetOf c).synthPending = false := rfl
@[simp] theorem resetOf_phase (c : Config) : (State.resetOf c).phase = .idle := rfl
@[simp] theorem resetOf_j (c : Config) : (State.resetOf c).j = 0 := rfl
@[simp] theorem resetOf_t (c : Config) : (State.resetOf c).t = 0 := rfl
@[simp] theorem resetOf_err (c : Config) : (State.resetOf c).err = 0 := rfl
@[simp] theorem resetOf_pos (c : Config) : (State.resetOf c).pos = .first := rfl
@[simp] theorem resetOf_resetIn (c : Config) : (State.resetOf c).resetIn = false := rfl
@[simp] theorem resetOf_inbox (c : Config) : (State.resetOf c).inbox = [] := rfl
@[simp] theorem resetOf_outbox (c : Config) : (State.resetOf c).outbox = [] := rfl
@[simp] theorem applyReset_cfg (s : State) : (applyReset s).cfg = s.cfg := rfl
@[simp] theorem applyReset_h (s : State) : (applyReset s).h = Vector.replicate 8 0 := rfl
@[simp] theorem applyReset_v (s : State) : (applyReset s).v = Vector.replicate 8 0 := rfl
@[simp] theorem applyReset_w (s : State) : (applyReset s).w = Vector.replicate 64 0 := rfl
@[simp] theorem applyReset_blk (s : State) : (applyReset s).blk = Vector.replicate 64 0 := rfl
@[simp] theorem applyReset_cbuf (s : State) : (applyReset s).cbuf = [] := rfl
@[simp] theorem applyReset_bytesRemaining (s : State) : (applyReset s).bytesRemaining = 0 := rfl
@[simp] theorem applyReset_lenSuffix (s : State) : (applyReset s).lenSuffix = Vector.replicate 8 0 := rfl
@[simp] theorem applyReset_markerEmitted (s : State) : (applyReset s).markerEmitted = false := rfl
@[simp] theorem applyReset_bytesRead (s : State) : (applyReset s).bytesRead = 0 := rfl
@[simp] theorem applyReset_used (s : State) : (applyReset s).used = 0 := rfl
@[simp] theorem applyReset_nblk (s : State) : (applyReset s).nblk = 0 := rfl
@[simp] theorem applyReset_synthPending (s : State) : (applyReset s).synthPending = false := rfl
@[simp] theorem applyReset_phase (s : State) : (applyReset s).phase = .idle := rfl
@[simp] theorem applyReset_j (s : State) : (applyReset s).j = 0 := rfl
@[simp] theorem applyReset_t (s : State) : (applyReset s).t = 0 := rfl
@[simp] theorem applyReset_err (s : State) : (applyReset s).err = 0 := rfl
@[simp] theorem applyReset_pos (s : State) : (applyReset s).pos = .first := rfl
@[simp] theorem applyReset_resetIn (s : State) : (applyReset s).resetIn = false := rfl
@[simp] theorem applyReset_inbox (s : State) : (applyReset s).inbox = s.inbox := rfl
@[simp] theorem applyReset_outbox (s : State) : (applyReset s).outbox = s.outbox := rfl

end Sys2Proof.Machine
end

