-- ==== Sys2Proof/Laws/Ops.lean ====
section
/-! SUPPORT. For each shared operation, what it can answer; and what a step can do. -/

namespace Sys2Proof.Machine

theorem andThen_eq_next {r : Result} {f : State → Result} {t : State} :
    andThen r f = .next t ↔ ∃ s, r = .next s ∧ f s = .next t := by
  cases r <;> simp [andThen]

@[simp] theorem andThen_next (s : State) (f : State → Result) : andThen (.next s) f = f s := rfl

theorem andThen_eq_fault {r : Result} {f : State → Result} {x : Fault} :
    andThen r f = .fault x ↔ r = .fault x ∨ ∃ s, r = .next s ∧ f s = .fault x := by
  cases r <;> simp [andThen]

/-- A store inside the buffer answers a next state that differs in the buffer only. -/
theorem memWrite_eq_next {k : Nat} {bs : List Byte} {s t : State} :
    memWrite k bs s = .next t ↔
      k + bs.length ≤ s.cfg.capacity ∧ t = { s with cbuf := writeBytes s.cbuf k bs } := by
  unfold memWrite
  split <;> simp_all [eq_comm]

/-- A store faults exactly outside the buffer. -/
theorem memWrite_eq_fault {k : Nat} {bs : List Byte} {s : State} {x : Fault} :
    memWrite k bs s = .fault x ↔ s.cfg.capacity < k + bs.length ∧ x = .outsideBuffer k := by
  unfold memWrite
  split
  · simp; omega
  · simp [eq_comm]; omega

/-- A block read answers a next state that differs in `blk` only, where all 64 bytes are written. -/
theorem memReadBlock_eq_next {k : Nat} {s t : State} :
    memReadBlock k s = .next t ↔
      k + 64 ≤ s.cfg.capacity ∧ (∀ i < 64, (readByte s.cbuf (k + i)).isSome = true) ∧
        t = { s with blk := blockAt s.cbuf k } := by
  unfold memReadBlock
  split
  · rename_i h
    cases hu : firstUnwritten s.cbuf k with
    | none =>
      have hw := firstUnwritten_eq_none.1 hu
      simp only [Host.Outcome.next.injEq]
      exact ⟨fun e => ⟨h, hw, e.symm⟩, fun e => e.2.2.symm⟩
    | some a =>
      have := mt firstUnwritten_eq_none.2 (by rw [hu]; simp)
      simp only [reduceCtorEq, false_iff, not_and]
      exact fun _ h' => absurd h' this
  · rename_i h
    simp [h]

/-- A block read faults exactly outside the buffer or at its first unwritten byte. -/
theorem memReadBlock_eq_fault {k : Nat} {s : State} {x : Fault} :
    memReadBlock k s = .fault x ↔
      (s.cfg.capacity < k + 64 ∧ x = .outsideBuffer k) ∨
        (k + 64 ≤ s.cfg.capacity ∧ ∃ a, firstUnwritten s.cbuf k = some a ∧ x = .unwrittenByte a) := by
  unfold memReadBlock
  by_cases h : k + 64 ≤ s.cfg.capacity
  · rw [if_pos h]
    cases firstUnwritten s.cbuf k <;> simp [h, eq_comm]
  · rw [if_neg h]
    simp only [Host.Outcome.fault.injEq, h, false_and, or_false]
    exact ⟨fun e => ⟨by omega, e.symm⟩, fun e => e.2.symm⟩

theorem sequenced_eq_next {i : Instr} {r : Result} {t : State} :
    sequenced i r = .next t ↔ ∃ s, r = .next s ∧ t = advance i s := by
  rw [sequenced, andThen_eq_next]
  simp [eq_comm]

theorem sequenced_eq_fault {i : Instr} {r : Result} {x : Fault} :
    sequenced i r = .fault x ↔ r = .fault x := by
  simp [sequenced, andThen_eq_fault]

@[simp] theorem sequenced_next (i : Instr) (s : State) : sequenced i (.next s) = .next (advance i s) :=
  rfl

/-- Everything a step that goes on can do: take reset, wait, or run an operation. -/
theorem step_eq_next {s t : State} :
    step s = .next t ↔
      (fetch s = .reset ∧ t = applyReset s) ∨ (fetch s = .wait ∧ t = s) ∨
        ∃ i s' u, fetch s = .run i s' ∧ exec i s' = .next u ∧ t = advance i u := by
  unfold step
  cases h : fetch s with
  | reset => simp [eq_comm]
  | wait => simp [eq_comm]
  | stop r => simp
  | run i s' =>
    simp only [sequenced_eq_next, reduceCtorEq, false_and, false_or, Fetch.run.injEq]
    constructor
    · rintro ⟨u, he, ht⟩
      exact ⟨i, s', u, ⟨rfl, rfl⟩, he, ht⟩
    · rintro ⟨_, _, u, ⟨rfl, rfl⟩, he, ht⟩
      exact ⟨u, he, ht⟩

/-- A step faults exactly where the operation it runs does. -/
theorem step_eq_fault {s : State} {x : Fault} :
    step s = .fault x ↔ ∃ i s', fetch s = .run i s' ∧ exec i s' = .fault x := by
  unfold step
  cases h : fetch s <;> simp [sequenced_eq_fault]

end Sys2Proof.Machine
end

