-- ==== Sys2Proof/Laws/Padding.lean ====
section
/-! SUPPORT. The bounds of the padding plan, the checks of `DATA`, and what is written after a write. -/

namespace Sys2Proof.Machine

/-- Where eight bytes are free behind the marker, the padding that fits ends inside the chunk (R110). -/
theorem padding_fits {c used : Nat} (hc : c % 64 = 0) (hu : used + 8 ≤ c) :
    used + padZeros used + 8 ≤ c := by
  unfold padZeros
  split <;> omega

/-- A write that begins where the written bytes end, or before, extends them. -/
theorem written_writeBytes {m : Memory} {k n : Nat} {bs : List Byte} (h : Written m k)
    (hn : n ≤ k + bs.length) : Written (writeBytes m k bs) n := by
  intro a ha
  rw [readByte_writeBytes]
  split
  · rw [List.getElem?_eq_getElem (by omega)]
    rfl
  · exact h a (by omega)

/-- A write inside the buffer leaves every cell inside it. -/
theorem inside_writeBytes {m : Memory} {k c : Nat} {bs : List Byte} (h : ∀ x ∈ m, x.1 < c)
    (hk : k + bs.length ≤ c) : ∀ x ∈ writeBytes m k bs, x.1 < c := by
  intro x hx
  rcases mem_writeBytes hx with hx | hx
  · exact h x hx
  · omega

/-- What is known where no check of `DATA` raises: it stops the run, or takes the chunk. -/
theorem dataError_eq_none {n : BitVec 64} {s : State} (h : dataError n s = none) :
    n.toNat ≤ s.cfg.capacity ∧ n.toNat ≤ s.bytesRemaining.toNat ∧
      ((n = 0 ∧ s.markerEmitted = true) ∨
        ((n = 0 → s.bytesRemaining = 0) ∧
          (n.toNat < s.cfg.capacity → s.bytesRemaining - n = 0))) := by
  unfold dataError at h
  split at h
  · simp at h
  split at h
  · simp at h
  split at h
  · rename_i h1
    exact ⟨by omega, by omega, .inl (by simpa using h1)⟩
  split at h
  · simp at h
  split at h
  · simp at h
  rename_i h1 h2
  exact ⟨by omega, by omega, .inr ⟨by simpa using h1, by simpa using h2⟩⟩

end Sys2Proof.Machine
end

