-- ==== Sys2Proof/Laws/PerInstr.lean ====
section
/-! SUPPORT. Per operation: the width of its encoding is the one the opcode table gives its row (and, for
`DATA`, the payload behind it). -/

namespace Sys2Proof.Laws.EncodedWidth

/-- The bits of an operation's row in spec/opcode_table.json, and of its payload. -/
def tableBits : Instr → Nat
  | .start => 72
  | .len _ => 72
  | .lenFail => 72
  | .data n _ => 72 + 8 * n.toNat
  | .rdFail => 72
  | .lenReq => 72
  | .rdReq _ => 72
  | .done => 72
  | .error _ => 72
  | .mark => 16
  | .zfill => 16
  | .suffix => 16
  | .slice => 16
  | .synth => 16
  | .ldw _ => 16
  | .sched _ => 16
  | .ldv => 16
  | .round _ => 16
  | .ffwd => 16

/-- A well-formed operation is encoded in the bits its row has (R74, R75, R76). -/
def Statement (i : Instr) : Prop := i.WellFormed → 8 * (encode i).length = tableBits i

theorem header_length (code : Byte) (arg : BitVec 64) : (headerBytes code arg).length = 9 := rfl

theorem start : Statement .start := fun _ => rfl
theorem len (l : BitVec 64) : Statement (.len l) := fun _ => rfl
theorem lenFail : Statement .lenFail := fun _ => rfl
theorem data (n : BitVec 64) (payload : List Byte) : Statement (.data n payload) := by
  intro h
  have h' : payload.length = n.toNat := by simpa [Instr.WellFormed, Instr.wellFormed] using h
  simp only [encode, List.length_append, header_length, tableBits, h']
  omega
theorem rdFail : Statement .rdFail := fun _ => rfl
theorem lenReq : Statement .lenReq := fun _ => rfl
theorem rdReq (c : BitVec 64) : Statement (.rdReq c) := fun _ => rfl
theorem done : Statement .done := fun _ => rfl
theorem error (e : BitVec 3) : Statement (.error e) := fun _ => rfl
theorem mark : Statement .mark := fun _ => rfl
theorem zfill : Statement .zfill := fun _ => rfl
theorem suffix : Statement .suffix := fun _ => rfl
theorem slice : Statement .slice := fun _ => rfl
theorem synth : Statement .synth := fun _ => rfl
theorem ldw (t : BitVec 6) : Statement (.ldw t) := fun _ => rfl
theorem sched (t : BitVec 6) : Statement (.sched t) := fun _ => rfl
theorem ldv : Statement .ldv := fun _ => rfl
theorem round (i : BitVec 6) : Statement (.round i) := fun _ => rfl
theorem ffwd : Statement .ffwd := fun _ => rfl

end Sys2Proof.Laws.EncodedWidth
end

