-- ==== Sys2Proof/Laws/Sequencer.lean ====
section
/-! SUPPORT. What the sequencer issues, as an operation: the words of R117 decoded once, so that no later
proof decodes them again. -/

namespace Sys2Proof.Machine

/-- The operation that the bytes of `issue` encode. -/
def issuedOp (s : State) : Option Instr :=
  match s.phase with
  | .idle => none
  | .probe => if s.pos = .first then none else some .lenReq
  | .fill => if s.pos = .first then none else some (.rdReq (BitVec.ofNat 64 s.cfg.capacity))
  | .done => if s.pos = .first then none else some .done
  | .failed => if s.pos = .first then none else some (.error s.err)
  | .plan =>
    match s.pos with
    | .first => some .mark
    | .second => some .zfill
    | .third => some .suffix
  | .slice => some .slice
  | .synth => some .synth
  | .expand =>
    if s.pos = .first then if s.t.toNat < 16 then some (.ldw s.t) else some (.sched s.t)
    else some .ldv
  | .compress => if s.pos = .first then some (.round s.t) else some .ffwd

theorem decode_uop_ldw {t : BitVec 6} (h : t.toNat < 16) (rest : List Byte) :
    decode (uopBytes 0x50 t ++ rest) = .ok (.ldw t, rest) := by
  have hs : ¬ 64 ≤ t.toNat := by have := t.isLt; omega
  rw [decode_uopBytes _ _ _ (by decide)]
  simp [decodeUop, h, Except.map, Nat.mod_eq_of_lt (show t.toNat < 256 by omega), hs]

theorem decode_uop_sched {t : BitVec 6} (h : 16 ≤ t.toNat) (rest : List Byte) :
    decode (uopBytes 0x51 t ++ rest) = .ok (.sched t, rest) := by
  have hs : ¬ 64 ≤ t.toNat := by have := t.isLt; omega
  rw [decode_uopBytes _ _ _ (by decide)]
  simp [decodeUop, h, Except.map, Nat.mod_eq_of_lt (show t.toNat < 256 by omega), hs]

theorem decode_uop_round (t : BitVec 6) (rest : List Byte) :
    decode (uopBytes 0x61 t ++ rest) = .ok (.round t, rest) := by
  have hs : ¬ 64 ≤ t.toNat := by have := t.isLt; omega
  rw [decode_uopBytes _ _ _ (by decide)]
  simp [decodeUop, Except.map, Nat.mod_eq_of_lt (show t.toNat < 256 by omega), hs]

theorem decode_header_rdReq (c : BitVec 64) (rest : List Byte) :
    decode (headerBytes 0x21 c ++ rest) = .ok (.rdReq c, rest) := by
  rw [decode_headerBytes _ _ _ (by decide) (by decide)]
  rfl

theorem decode_header_error (e : BitVec 3) (rest : List Byte) :
    decode (headerBytes 0x29 (e.setWidth 64) ++ rest) = .ok (.error e, rest) := by
  have he : e.toNat < 8 := e.isLt
  have hm : e.toNat % 18446744073709551616 < 8 := by omega
  rw [decode_headerBytes _ _ _ (by decide) (by decide)]
  simp [decodeHeader, hm]

/-- Where the sequencer issues an operation, its bytes decode to it; where it issues none, there are none. -/
theorem issue_decodes (s : State) :
    match issuedOp s with
    | none => issue s = []
    | some i => issue s ≠ [] ∧ decode (issue s) = .ok (i, []) := by
  have h1 := fun (h : s.t.toNat < 16) => decode_uop_ldw h []
  have h2 := fun (h : 16 ≤ s.t.toNat) => decode_uop_sched h []
  have h3 := decode_uop_round s.t []
  have h4 := decode_header_rdReq (BitVec.ofNat 64 s.cfg.capacity) []
  have h5 := decode_header_error s.err []
  simp only [List.append_nil] at h1 h2 h3 h4 h5
  have h0 : ∀ b bs, uopBytes b bs ≠ [] ∧ ∀ c a, headerBytes c a ≠ [] :=
    fun _ _ => ⟨List.cons_ne_nil _ _, fun _ _ => List.cons_ne_nil _ _⟩
  unfold issuedOp issue
  cases s.phase <;> cases s.pos
  all_goals simp only [reduceCtorEq, if_true, if_false]
  all_goals first
    | exact ⟨(h0 _ _).1, h3⟩
    | exact ⟨(h0 0 0).2 _ _, h4⟩
    | exact ⟨(h0 0 0).2 _ _, h5⟩
    | exact ⟨(h0 0 0).2 _ _, rfl⟩
    | exact ⟨(h0 _ _).1, rfl⟩
    | skip
  by_cases ht : s.t.toNat < 16
  · simp only [ht, if_true]
    exact ⟨(h0 _ _).1, h1 ht⟩
  · simp only [ht, if_false]
    exact ⟨(h0 _ _).1, h2 (by omega)⟩

/-- The fetch, where reset is not applied: the issued operation, or else the incoming interface. -/
theorem fetch_eq (s : State) (hr : s.resetIn = false) :
    fetch s = match issuedOp s with
      | none => fetchIncoming s
      | some i => .run i s := by
  have h := issue_decodes s
  rw [fetch, hr, if_neg (by simp), fetchIssued]
  cases ho : issuedOp s with
  | none => rw [ho] at h; simp only at h; rw [h]
  | some i =>
    rw [ho] at h
    obtain ⟨hne, hd⟩ := h
    cases hi : issue s with
    | nil => exact absurd hi hne
    | cons c rest => rw [hi] at hd; simp only [hd]

/-- Where an operation is issued, which one and in which sequencer state (R117). -/
theorem issuedOp_cases {s : State} {i : Instr} (h : issuedOp s = some i) :
    (i = .lenReq ∧ s.phase = .probe) ∨
    (i = .rdReq (BitVec.ofNat 64 s.cfg.capacity) ∧ s.phase = .fill) ∨
    (i = .done ∧ s.phase = .done) ∨
    (i = .error s.err ∧ s.phase = .failed) ∨
    (i = .mark ∧ s.phase = .plan ∧ s.pos = .first) ∨
    (i = .zfill ∧ s.phase = .plan ∧ s.pos = .second) ∨
    (i = .suffix ∧ s.phase = .plan ∧ s.pos = .third) ∨
    (i = .slice ∧ s.phase = .slice) ∨
    (i = .synth ∧ s.phase = .synth) ∨
    (i = .ldw s.t ∧ s.phase = .expand ∧ s.pos = .first ∧ s.t.toNat < 16) ∨
    (i = .sched s.t ∧ s.phase = .expand ∧ s.pos = .first ∧ 16 ≤ s.t.toNat) ∨
    (i = .ldv ∧ s.phase = .expand ∧ s.pos ≠ .first) ∨
    (i = .round s.t ∧ s.phase = .compress ∧ s.pos = .first) ∨
    (i = .ffwd ∧ s.phase = .compress ∧ s.pos ≠ .first) := by
  unfold issuedOp at h
  cases hp : s.phase <;> cases hq : s.pos <;>
    simp only [hp, hq, reduceCtorEq, if_true, if_false, Option.some.injEq] at h <;>
    try (subst h; simp)
  by_cases ht : s.t.toNat < 16
  · rw [if_pos ht, Option.some.injEq] at h
    subst h
    simp [ht]
  · rw [if_neg ht, Option.some.injEq] at h
    subst h
    simp
    omega

theorem incomingOp_cases {i : Instr} (h : incomingOp i = true) :
    i = .start ∨ (∃ l, i = .len l) ∨ i = .lenFail ∨ (∃ n p, i = .data n p) ∨ i = .rdFail := by
  cases i <;> first | (cases h; done) | simp

/-- Bytes that begin with the code of an incoming transaction decode to one. -/
theorem incomingOp_of_decode {c : Byte} {bs rest : List Byte} {i : Instr}
    (h : decode (c :: bs) = .ok (i, rest)) (hc : incomingCode c = true) : incomingOp i = true := by
  have hcases : c = 0x01 ∨ c = 0x10 ∨ c = 0x11 ∨ c = 0x12 ∨ c = 0x13 := by
    simpa [incomingCode, or_assoc] using hc
  have hu : uopCode c = false := by rcases hcases with rfl | rfl | rfl | rfl | rfl <;> decide
  simp only [decode, hu, hc, Bool.true_or, Bool.false_eq_true, if_true, if_false] at h
  split at h
  · rcases hcases with rfl | rfl | rfl | rfl | rfl <;> simp [decodeHeader] at h
    case inr.inr.inr.inl =>
      split at h
      · simp at h
      · simp only [Except.ok.injEq, Prod.mk.injEq] at h
        rw [← h.1]
        rfl
    all_goals
      rw [← h.1]
      rfl
  · simp at h

/-- An operation that is run is the issued one, on the state as it is, or where none is issued, an incoming
transaction whose bytes are taken off the interface. -/
theorem fetch_eq_run {s s' : State} {i : Instr} (h : fetch s = .run i s') :
    s.resetIn = false ∧
      ((issuedOp s = some i ∧ s' = s) ∨
        (issuedOp s = none ∧ incomingOp i = true ∧
          ∃ rest, decode s.inbox = .ok (i, rest) ∧ s' = { s with inbox := rest })) := by
  by_cases hr : s.resetIn = true
  · simp [fetch, hr] at h
  have hr : s.resetIn = false := by simpa using hr
  refine ⟨hr, ?_⟩
  rw [fetch_eq s hr] at h
  cases ho : issuedOp s with
  | some j =>
    rw [ho] at h
    simp only [Fetch.run.injEq] at h
    exact .inl ⟨by rw [h.1], h.2.symm⟩
  | none =>
    rw [ho] at h
    simp only [fetchIncoming] at h
    split at h
    · simp at h
    · rename_i c bs hb
      split at h
      · rename_i hcode
        split at h
        · rename_i j rest hd
          simp only [Fetch.run.injEq] at h
          obtain ⟨rfl, rfl⟩ := h
          exact .inr ⟨rfl, incomingOp_of_decode (hb ▸ hd) hcode, rest, hd, rfl⟩
        · simp at h
      · simp at h

end Sys2Proof.Machine
end

