-- ==== Sys2Proof/Tests/Slice0.lean ====
section
/-! SUPPORT. The model's own tests, with expected results taken from spec/ (the vectors of
spec/95_test_vectors.md and the examples of the rules), and a witness for the hypotheses of each statement. -/

namespace Sys2Proof.Tests

open Sys2Proof Sys2Proof.Machine

/-- The state a result goes on with. -/
def after (r : Result) : State :=
  match r with
  | .next s => s
  | .fault _ => State.reset
  | .refused _ => State.reset

/-- Whether a result goes on. -/
def goesOn (r : Result) : Bool :=
  match r with
  | .next _ => true
  | .fault _ => false
  | .refused _ => false

/-- An instance with `C = 64` (spec/95_test_vectors.md V9), after reset. -/
def small : State := State.resetOf ⟨64, 4294967296⟩

/-- The same with `C = 128`. -/
def wide : State := State.resetOf ⟨128, 4294967296⟩

/-- `n` bytes of `61` (V5). -/
def letters (n : Nat) : List Byte := List.replicate n 0x61

/-- A chunk of `C` bytes `0, 1, 2, …` in the buffer. -/
def counted (n : Nat) : Memory := cellsFrom 0 ((List.range n).map (BitVec.ofNat 8))

/-! ### Encodings: one word of each operation, written out from R74 to R77 -/

theorem test_decode_start : decode [0x01, 0, 0, 0, 0, 0, 0, 0, 0] = .ok (.start, []) := by decide
theorem test_decode_start_reserved_arg :
    decode [0x01, 0, 0, 0, 0, 0, 0, 0, 9] = .ok (.start, []) := by decide
/-- P6, line 3. -/
theorem test_decode_len :
    decode [0x10, 0, 0, 0, 1, 0, 0, 0, 0] = .ok (.len 4294967296, []) := by decide
theorem test_decode_lenFail : decode [0x11, 0, 0, 0, 0, 0, 0, 0, 0] = .ok (.lenFail, []) := by decide
/-- P2, line 5, with the first byte of another transaction behind it. -/
theorem test_decode_data :
    decode [0x12, 0, 0, 0, 0, 0, 0, 0, 3, 0x61, 0x62, 0x63, 0x12] =
      .ok (.data 3 [0x61, 0x62, 0x63], [0x12]) := by decide
theorem test_decode_rdFail : decode [0x13, 0, 0, 0, 0, 0, 0, 0, 0] = .ok (.rdFail, []) := by decide
theorem test_decode_lenReq : decode [0x20, 0, 0, 0, 0, 0, 0, 0, 0] = .ok (.lenReq, []) := by decide
/-- P2, line 4. -/
theorem test_decode_rdReq : decode [0x21, 0, 0, 0, 0, 0, 0, 0, 0x40] = .ok (.rdReq 64, []) := by
  decide
theorem test_decode_done : decode [0x28, 0, 0, 0, 0, 0, 0, 0, 0] = .ok (.done, []) := by decide
/-- P6, line 4. -/
theorem test_decode_error : decode [0x29, 0, 0, 0, 0, 0, 0, 0, 2] = .ok (.error 2, []) := by decide
theorem test_decode_mark : decode [0b01000000, 0b00000000] = .ok (.mark, []) := by decide
theorem test_decode_zfill : decode [0b01000001, 0b00000000] = .ok (.zfill, []) := by decide
theorem test_decode_suffix : decode [0b01000010, 0b00000000] = .ok (.suffix, []) := by decide
theorem test_decode_slice : decode [0b01000011, 0b00000000] = .ok (.slice, []) := by decide
theorem test_decode_synth : decode [0b01000100, 0b00000000] = .ok (.synth, []) := by decide
theorem test_decode_ldw : decode [0b01010000, 0b00001111] = .ok (.ldw 15, []) := by decide
theorem test_decode_sched : decode [0b01010001, 0b00010000] = .ok (.sched 16, []) := by decide
theorem test_decode_ldv : decode [0b01100000, 0b00000000] = .ok (.ldv, []) := by decide
theorem test_decode_round : decode [0b01100001, 0b00111111] = .ok (.round 63, []) := by decide
theorem test_decode_ffwd : decode [0b01100010, 0b00000000] = .ok (.ffwd, []) := by decide

/-- R80 d: an index too large, one too small, one that must be zero, a bit of 7:6, an unassigned `uop`. -/
theorem test_decode_reserved_words :
    decode [0x50, 0x10] = .error (.reservedField 0x50) ∧
    decode [0x51, 0x0f] = .error (.reservedField 0x51) ∧
    decode [0x40, 0x01] = .error (.reservedField 0x40) ∧
    decode [0x61, 0x40] = .error (.reservedField 0x61) ∧
    decode [0x45, 0x00] = .error (.unassignedCode 0x45) := by decide
theorem test_decode_truncated :
    decode [0x12, 0, 0, 0, 0, 0, 0, 0, 3, 0x61] = .error .truncated ∧
    decode [0x10, 0, 0, 0] = .error .truncated ∧ decode [0x50] = .error .truncated := by decide

/-- The table's numbering: `code` in bits 71:64, `arg` in bits 63:0; 16 bits for a format U word. -/
theorem test_table_numbers :
    decodeTableWord 72 0x100000000000000003 = some (.len 3) ∧
    decodeTableWord 72 0x210000000000000040 = some (.rdReq 64) ∧
    decodeTableWord 72 0x120000000000000002 = some (.data 2 [0, 0]) ∧
    decodeTableWord 16 0x500f = some (.ldw 15) ∧ decodeTableWord 16 0x5005 = some (.ldw 5) ∧
    decodeTableWord 16 0x4401 = none := by decide

/-! ### Well-formedness: a term that each check refuses -/

theorem test_ill_formed_data : Instr.wellFormed (.data 3 [0x61]) = false := by decide
theorem test_ill_formed_ldw : Instr.wellFormed (.ldw 16) = false := by decide
theorem test_ill_formed_sched : Instr.wellFormed (.sched 15) = false := by decide
theorem test_well_formed_bounds :
    Instr.wellFormed (.ldw 15) = true ∧ Instr.wellFormed (.sched 16) = true ∧
    Instr.wellFormed (.data 0 []) = true := by decide

/-! ### Functions (V8) -/

theorem test_add_wraps : add32 0xffffffff 0xffffffff = 0xfffffffe := by decide
theorem test_rotr : rotr 0x80000001 2 = 0x60000000 ∧ rotr 0x12345678 25 = 0x1a2b3c09 := by decide
theorem test_shr : shr 0x12345678 3 = 0x02468acf ∧ shr 0xffffffff 10 = 0x003fffff := by decide
theorem test_sigma : sigma0 0x61626380 = 0x940e90ef ∧ sigma1 0x61626380 = 0x7da86405 := by decide
theorem test_big_sigma :
    bigSigma0 0x6a09e667 = 0xce20b47e ∧ bigSigma1 0x510e527f = 0x3587272b := by decide
theorem test_choose : choose 0xffff0000 0x12345678 0x9abcdef0 = 0x1234def0 := by decide
theorem test_majority : majority 0xf0f0f0f0 0xff00ff00 0xffff0000 = 0xfff0f000 := by decide
theorem test_padZeros :
    [1, 4, 56, 57, 58, 64, 65, 120, 121].map padZeros = [55, 52, 0, 63, 62, 56, 55, 0, 63] := by decide
theorem test_bytesBE64 :
    (bytesBE64 (8 * 4294967295)).toList = [0, 0, 0, 0x07, 0xff, 0xff, 0xff, 0xf8] := by decide
/-- V1 with the correction of C1: the whole function of the empty message. -/
theorem test_hash_empty : (messageHash []).toList =
    [0xe3b0c442, 0x98fc1c14, 0x9afbf4c8, 0x996fb924, 0x27ae41e4, 0x649b934c, 0xa495991b, 0x7852b855] := by
  decide +kernel
/-- V2. -/
theorem test_hash_abc : (messageHash [0x61, 0x62, 0x63]).toList =
    [0xba7816bf, 0x8f01cfea, 0x414140de, 0x5dae2223, 0xb00361a3, 0x96177a9c, 0xb410ff61, 0xf20015ad] := by
  decide +kernel
/-- R182: leading zeros are kept. -/
theorem test_hex : (hexDigest (romIV.set 0 1)).take 10 =
    ['0', '0', '0', '0', '0', '0', '0', '1', 'b', 'b'] := by decide

/-! ### Transactions -/

/-- R100, example. -/
theorem test_start : (after (exec .start small)).phase = .probe ∧
    (after (exec .start small)).h[0] = 0x6a09e667 := by decide
/-- R75, P2 lines 1 and 2: `LEN_REQ` is emitted in the step that makes `len_req` 1, in the form of R75. -/
theorem test_start_emits :
    lenReqOut (after (step { small with inbox := encode .start })) = true ∧
    (after (step { small with inbox := encode .start })).outbox = [0x200000000000000000#72] := by decide
theorem test_start_clears_err :
    (after (exec .start { small with phase := .failed, err := 2 })).err = 0 := by decide
/-- V9, line 3. -/
theorem test_len : (after (exec (.len 4294967295) { small with phase := .probe })).lenSuffix.toList =
    [0, 0, 0, 7, 0xff, 0xff, 0xff, 0xf8] := by decide
/-- V9, line 2. -/
theorem test_len_oversize :
    (after (exec (.len 4294967296) { small with phase := .probe })).err = 2 := by decide
/-- V9, line 1. -/
theorem test_lenFail : (after (exec .lenFail { small with phase := .probe })).err = 1 := by decide
/-- R103, example. -/
theorem test_data :
    (after (exec (.data 3 [0x61, 0x62, 0x63])
      { small with phase := .fill, bytesRemaining := 3 })).cbuf = [(0, 0x61), (1, 0x62), (2, 0x63)] := by
  decide
/-- V9, lines 6 to 10: SHORT_READ, UNDERRUN, OVERRUN, OVERRUN, COUNT_RANGE. -/
theorem test_data_errors :
    (after (exec (.data 30 (letters 30)) { small with phase := .fill, bytesRemaining := 100 })).err = 4 ∧
    (after (exec (.data 0 []) { small with phase := .fill, bytesRemaining := 36 })).err = 5 ∧
    (after (exec (.data 11 (letters 11)) { small with phase := .fill, bytesRemaining := 10 })).err = 6 ∧
    (after (exec (.data 1 [0x78]) { small with phase := .fill, markerEmitted := true })).err = 6 ∧
    (after (exec (.data 65 (letters 65)) { small with phase := .fill, bytesRemaining := 100 })).err = 7 := by
  decide
/-- R211: the raise emits `ERROR` with its code. -/
theorem test_raise_emits :
    (after (exec .rdFail { small with phase := .fill })).outbox = [0x290000000000000003#72] := by decide
/-- V9, line 4. -/
theorem test_rdFail : (after (exec .rdFail { small with phase := .fill })).err = 3 := by decide
/-- V9, last line. -/
theorem test_len_not_accepted :
    goesOn (exec (.len 3) { small with phase := .fill }) = false := by decide

/-! ### Notifications -/

theorem test_lenReq : (after (exec .lenReq small)).outbox = [0x200000000000000000#72] := by decide
/-- P2, line 4. -/
theorem test_rdReq : (after (exec (.rdReq 64) small)).outbox = [0x210000000000000040#72] := by decide
theorem test_done : (after (exec .done small)).outbox = [0x280000000000000000#72] := by decide
/-- P6, line 4. -/
theorem test_error : (after (exec (.error 2) small)).outbox = [0x290000000000000002#72] := by decide

/-! ### Padding and slicing -/

/-- R111, example. -/
theorem test_mark : readByte (after (exec .mark { small with bytesRead := 3 })).cbuf 3 = some 0x80 ∧
    (after (exec .mark { small with bytesRead := 3 })).used = 4 := by decide
theorem test_mark_last_byte :
    (after (exec .mark { small with bytesRead := 63 })).cbuf = [(63, 0x80)] := by decide
/-- R112, example: zeros from 4 to 55. -/
theorem test_zfill : (after (exec .zfill { small with used := 4 })).cbuf = cellsFrom 4 (List.replicate 52 0) := by
  decide
/-- R110, example: `used = 61` fills 61 to 63. -/
theorem test_zfill_overflow :
    (after (exec .zfill { small with used := 61 })).cbuf = [(61, 0), (62, 0), (63, 0)] := by decide
/-- R113, example. -/
theorem test_suffix :
    (after (exec .suffix { small with used := 4, lenSuffix := bytesBE64 24 })).cbuf =
      [(56, 0), (57, 0), (58, 0), (59, 0), (60, 0), (61, 0), (62, 0), (63, 0x18)] := by decide
/-- R114, example: `C = 128`, `j = 1` copies `cbuf[64..127]`. -/
theorem test_slice :
    (after (exec .slice { wide with j := 1, cbuf := counted 128 })).blk[0] = 64 ∧
    (after (exec .slice { wide with j := 1, cbuf := counted 128 })).blk[63] = 127 := by decide +kernel
theorem test_slice_unwritten :
    exec .slice { wide with j := 0, cbuf := counted 63 } = .fault (.unwrittenByte 63) := by rfl
/-- R115, example: `L = 64`. -/
theorem test_synth : (after (exec .synth { small with lenSuffix := bytesBE64 512 })).blk[0] = 0x80 ∧
    (after (exec .synth { small with lenSuffix := bytesBE64 512 })).blk[62] = 2 := by decide
theorem test_synth_marked :
    (after (exec .synth { small with markerEmitted := true })).blk[0] = 0 := by decide

/-! ### Expander and Core -/

/-- R142, example, at the last word. -/
theorem test_ldw :
    (after (exec (.ldw 15) { small with
      blk := (((small.blk.set 60 0x61).set 61 0x62).set 62 0x63).set 63 0x80 })).w[15] = 0x61626380 := by
  decide
/-- R143, example (V3): `W[17] = σ1(W[15])`. -/
theorem test_sched :
    (after (exec (.sched 17) { small with w := small.w.set 15 0x18 })).w[17] = 0x000f0000 := by decide
/-- R143, corner case (d). -/
theorem test_sched_wraps :
    (after (exec (.sched 16) { small with w := (small.w.set 0 0xffffffff).set 9 1 })).w[16] = 0 := by
  decide
/-- R164. -/
theorem test_ldv : (after (exec .ldv { small with h := romIV })).v = romIV := by decide
/-- R165, example: round 0 of the "abc" block. -/
theorem test_round :
    (after (exec (.round 0) { small with v := romIV, w := small.w.set 0 0x61626380 })).v =
      #v[0x5d6aebcd, 0x6a09e667, 0xbb67ae85, 0x3c6ef372, 0xfa2a4622, 0x510e527f, 0x9b05688c, 0x1f83d9ab] := by
  decide
/-- V3, round 63: from the variables after round 62. -/
theorem test_round_last :
    (after (exec (.round 63) { small with
      v := #v[0xd39a2165, 0x04d24d6c, 0xb85e2ce9, 0xb6ae8fff, 0xfb121210, 0x948d25b6, 0x961f4894, 0xb21bad3d]
      w := small.w.set 63 0x12b1edeb })).v =
      #v[0x506e3058, 0xd39a2165, 0x04d24d6c, 0xb85e2ce9, 0x5ef50f24, 0xfb121210, 0x948d25b6, 0x961f4894] := by
  decide
/-- R166, example, and a word that wraps. -/
theorem test_ffwd :
    (after (exec .ffwd { small with
      h := romIV.set 1 0xffffffff, v := (small.v.set 0 0x506e3058).set 1 2 })).h.toList.take 2 =
      [0xba7816bf, 1] := by decide

/-! ### The step -/

/-- From reset the engine waits. -/
theorem test_reset_waits : goesOn (step State.reset) = true ∧
    (after (step State.reset)).phase = .idle := by decide
/-- Every row of the table, placed after reset, runs; `SLICE` finds nothing written and faults. -/
theorem test_placed_rows_run :
    ([0x01, 0x10, 0x11, 0x12, 0x13, 0x20, 0x21, 0x28, 0x29].map fun c =>
      goesOn (step (State.reset.withFetchWord 72 (c * 2 ^ 64)))) = List.replicate 9 true ∧
    ([0x4000, 0x4100, 0x4200, 0x4400, 0x5000, 0x5110, 0x6000, 0x6100, 0x6200].map fun w =>
      goesOn (step (State.reset.withFetchWord 16 w))) = List.replicate 9 true ∧
    goesOn (step (State.reset.withFetchWord 16 0x4300)) = false := by decide
/-- R80 a: a micro-operation's code at the interface is not accepted. -/
theorem test_uop_at_interface :
    step { small with inbox := [0x40, 0x00] } = .refused (.unassignedCode 0x40) := by rfl

/-! ### Witnesses: the hypotheses of each statement are met -/

theorem witness_DecodeEncodeRoundTrip : (Instr.data 2 [7, 8]).WellFormed := by decide
theorem witness_DecodedOperationsAreWellFormed :
    decode [0x50, 0x05, 0xff] = .ok (.ldw 5, [0xff]) := by decide
theorem witness_EncodedWordsHaveOneMeaning :
    decode [0x29, 0, 0, 0, 0, 0, 0, 0, 7] = .ok (.error 7, []) ∧ Instr.error 7 ≠ .start ∧
      Instr.error 7 ≠ .lenFail ∧ Instr.error 7 ≠ .rdFail := by decide
theorem witness_IssuedWordsAreOperations : issue { small with phase := .plan } ≠ [] := by decide
theorem witness_UnassignedCodesAreRefused :
    AtBoundary { small with inbox := [0x02] } ∧ small.resetIn = false ∧
      (0x02 : Byte) ∉ ([0x01, 0x10, 0x11, 0x12, 0x13] : List Byte) := by decide
theorem witness_MistimedOperationsAreRefused :
    Phase.probe ≠ .idle ∧ Phase.probe ≠ .done ∧ Phase.probe ≠ .failed ∧ Phase.fill ≠ .probe ∧
      Phase.probe ≠ .fill ∧ ([] : List Byte).length = (0 : BitVec 64).toNat ∧
      16 ≤ (16 : BitVec 6).toNat ∧ (15 : BitVec 6).toNat < 16 ∧
      ([] : List Byte).length ≠ (1 : BitVec 64).toNat := by decide
theorem witness_RotateRightBits : 0 < 1 ∧ 31 < 32 ∧ (31 + 31) % 32 < 32 := by decide
/-- The last bit that a shift fills from `x`, and the first that it fills with zero. -/
theorem witness_SmallSigmaBits : 28 < 32 ∧ 28 ≤ 28 ∧ ¬ 29 ≤ 28 ∧ 21 ≤ 21 ∧ ¬ 22 ≤ 21 := by decide
theorem witness_BigSigmaBits : 31 < 32 := by decide
theorem witness_ByteOrderConversions : 7 < 8 := by decide
theorem witness_RomsHoldRootsOfPrimes : 63 < 64 ∧ firstPrimes.getD 63 0 = 311 ∧ 7 < 8 ∧ firstPrimes.getD 7 0 = 19 := by decide
theorem witness_ExpandSequenceComputesTheSchedule : 15 < 16 ∧ 16 ≤ 63 ∧ 63 < 64 := by decide
theorem witness_HexDigestNibbles : 7 < 8 ∧ 8 * 7 + 7 < 64 := by decide
theorem witness_PadZerosReachesTheSuffixSlot : 56 % 64 ≤ 56 ∧ 56 < 57 % 64 := by decide
theorem witness_StartBeginsARun :
    small.phase = .idle ∧ ({ small with phase := .done }).phase = .done ∧
      ({ small with phase := .failed }).phase = .failed := by decide
theorem witness_LengthIsRecordedOrRejected :
    ({ small with phase := .probe }).phase = .probe ∧
      (4294967295 : BitVec 64).toNat < ({ small with phase := .probe }).cfg.maxLen ∧
      ({ small with phase := .probe }).cfg.maxLen ≤ (4294967296 : BitVec 64).toNat := by decide
theorem witness_SourceFailuresRaise :
    ({ small with phase := .probe }).phase = .probe ∧ ({ small with phase := .fill }).phase = .fill := by
  decide
/-- One state for each clause, at the boundary of its range. -/
theorem witness_DataErrorsInOrder :
    (DataAccepted 65 (letters 65) { small with phase := .fill } ∧ 64 < (65 : BitVec 64).toNat) ∧
    (DataAccepted 64 (letters 64) { small with phase := .fill, bytesRemaining := 63 } ∧
      (64 : BitVec 64).toNat ≤ 64 ∧ (63 : BitVec 64).toNat < (64 : BitVec 64).toNat) ∧
    (DataAccepted 0 [] { small with phase := .fill, bytesRemaining := 1 } ∧ (1 : BitVec 64) ≠ 0) ∧
    (DataAccepted 63 (letters 63) { small with phase := .fill, bytesRemaining := 64 } ∧
      (63 : BitVec 64) ≠ 0 ∧ (63 : BitVec 64).toNat < 64 ∧
      (63 : BitVec 64).toNat < (64 : BitVec 64).toNat) := by decide
theorem witness_ZeroReadAfterPaddingStops :
    ({ small with phase := .fill, markerEmitted := true }).phase = .fill := by decide
/-- A full chunk with more to come, a full last chunk, a partial chunk, the empty message. -/
theorem witness_DataTakesTheChunk :
    (DataAccepted 64 (letters 64) { small with phase := .fill, bytesRemaining := 65 } ∧
      (64 : BitVec 64).toNat = small.cfg.capacity ∧ (64 : BitVec 64) ≠ 0) ∧
    (DataAccepted 64 (letters 64) { small with phase := .fill, bytesRemaining := 64 }) ∧
    (DataAccepted 63 (letters 63) { small with phase := .fill, bytesRemaining := 63 } ∧
      (63 : BitVec 64).toNat < small.cfg.capacity) ∧
    (DataAccepted 0 [] { small with phase := .fill } ∧ small.markerEmitted = false) := by decide
/-- A step into each of the four phases, and one that stays. -/
theorem witness_EnteringAPhaseEmits :
    [({ small with inbox := encode .start } : State),
      { small with phase := .probe, inbox := encode (.len 3) },
      { small with phase := .fill, markerEmitted := true, inbox := encode (.data 0 []) },
      { small with phase := .fill, inbox := encode .rdFail },
      { small with phase := .compress, t := 63, pos := .second }, small].map
      (fun s => (decide (s.phase = (after (step s)).phase), goesOn (step s), (after (step s)).phase)) =
    [(false, true, .probe), (false, true, .fill), (false, true, .done), (false, true, .failed),
      (false, true, .fill), (true, true, .idle)] := by decide
theorem witness_MarkWritesTheMarker :
    ({ small with bytesRead := 63 }).bytesRead < ({ small with bytesRead := 63 }).cfg.capacity := by
  decide
/-- `used` at the two ends of the overflow case and at the last fit. -/
theorem witness_ZeroFillWritesThePlannedZeros :
    small.cfg.Valid ∧ 64 ≤ small.cfg.capacity ∧ small.cfg.capacity - 57 < 8 ∧
      ¬ small.cfg.capacity - 56 < 8 := by decide
theorem witness_SuffixEndsABlock : small.cfg.Valid ∧ 56 + 8 ≤ small.cfg.capacity := by decide
theorem witness_SliceCopiesTheBlock :
    64 * ({ wide with j := 1, cbuf := counted 128 }).j + 64 ≤ wide.cfg.capacity ∧
      ∀ k < 64, (readByte (counted 128) (64 * 1 + k)).isSome = true := by decide +kernel
theorem witness_AccessesWithoutMeaningFault :
    small.cfg.capacity ≤ ({ small with bytesRead := 64 }).bytesRead ∧
    small.cfg.capacity < zfillOffset { small with used := 65 } + zfillCount { small with used := 65 } ∧
    small.cfg.capacity < suffixOffset { small with used := 57 } + 8 ∧
    small.cfg.capacity < 64 * ({ small with j := 1 }).j + 64 ∧
    (64 * small.j + 64 ≤ small.cfg.capacity ∧ readByte small.cbuf (64 * small.j + 0) = none) := by decide
/-- The largest partial chunk that overflows the buffer, and the largest that does not. -/
theorem witness_PartialPlanLaysOutThePadding :
    small.cfg.Valid ∧ ({ small with phase := .plan, bytesRead := 63 }).bytesRead < small.cfg.capacity ∧
      small.cfg.capacity - (63 + 1) < 8 ∧ 8 ≤ small.cfg.capacity - (55 + 1) := by decide
theorem witness_LoadWordIsBigEndian : (15 : BitVec 6).toNat < 16 := by decide
theorem witness_ScheduleWordFollowsTheRecurrence :
    16 ≤ (16 : BitVec 6).toNat ∧ 16 ≤ (63 : BitVec 6).toNat := by decide
theorem witness_RoundRewritesTheWorkingVariables :
    ∃ t1 t2 : Word, t1 = small.v[7] + bigSigma1 small.v[4] + romK[63] + small.w[63] +
        choose small.v[4] small.v[5] small.v[6] ∧
      t2 = bigSigma0 small.v[0] + majority small.v[0] small.v[1] small.v[2] := ⟨_, _, rfl, rfl⟩
theorem witness_SequencerProcessesABlock :
    ({ small with phase := .expand }).phase = .expand ∧ small.t = 0 ∧ small.pos = .first ∧
      small.resetIn = false := by decide
/-- The block before the last, and the last with a synthetic block behind it. -/
theorem witness_ChunkIsFoldedIntoTheHash :
    (∀ j ∈ [0, 1], ({ wide with phase := .slice, j := j, nblk := 2, cbuf := counted 128 }).j < 2) ∧
      64 * 2 ≤ wide.cfg.capacity ∧ Written (counted 128) (64 * 2) := by decide +kernel
theorem witness_StepRunsTheTransaction :
    AtBoundary { small with inbox := encode .start ++ [0x10] } ∧
      decode (encode .start ++ [0x10]) = .ok (.start, [0x10]) ∧ incomingOp .start = true := by decide
theorem witness_StepRunsTheIssuedOperation :
    decode (issue { small with phase := .expand, t := 16 }) = .ok (.sched 16, []) ∧
      exec (.sched 16) { small with phase := .expand, t := 16 } =
        .next (after (exec (.sched 16) { small with phase := .expand, t := 16 })) ∧
      exec .slice { small with phase := .slice } = .fault (.unwrittenByte 0) :=
  ⟨by decide, rfl, rfl⟩
theorem witness_PlacedWordIsRunNext : decodeTableWord 16 0x613f = some (.round 63) := by decide
/-- Nothing has arrived; the header has arrived and one byte of the payload is missing. -/
theorem witness_EngineWaitsForAWholeTransaction :
    (AtBoundary small ∧ small.inbox <+: encode .start ∧ small.inbox ≠ encode .start) ∧
    (Instr.data 2 [7, 8]).WellFormed ∧
    ([0x12, 0, 0, 0, 0, 0, 0, 0, 2, 7] : List Byte) <+: encode (.data 2 [7, 8]) ∧
    ([0x12, 0, 0, 0, 0, 0, 0, 0, 2, 7] : List Byte) ≠ encode (.data 2 [7, 8]) := by decide
theorem witness_OperationsAreUninterrupted :
    step { small with phase := .synth, inbox := [1] } =
      .next (after (step { small with phase := .synth, inbox := [1] })) ∧
      issue { small with phase := .synth, inbox := [1] } ≠ [] := ⟨rfl, by decide⟩
theorem witness_ResetEventFromAnyState : ({ small with resetIn := true, phase := .compress }).resetIn = true := by
  decide
/-- One state for each of the three rows that leave (COMPRESS, j, 63), and for the synthetic block. -/
theorem witness_SequencerFollowsItsTable :
    [({ small with phase := .compress, pos := .second, nblk := 2 } : State),
      { small with phase := .compress, pos := .second, nblk := 1, synthPending := true },
      { small with phase := .compress, pos := .second, nblk := 1 },
      { small with phase := .compress, pos := .second, nblk := 1, j := 1 },
      { small with phase := .expand, t := 62 }, { small with phase := .compress, t := 63 }].map
      (fun s => (goesOn (step s), (after (step s)).phase)) =
    [(true, .slice), (true, .synth), (true, .fill), (true, .fill), (true, .expand), (true, .compress)] := by
  decide
theorem witness_OnlyTheNamedOperationsWrite :
    exec .ffwd { small with v := small.v.set 0 1 } =
      .next (after (exec .ffwd { small with v := small.v.set 0 1 })) ∧
      (after (exec .ffwd { small with v := small.v.set 0 1 })).h ≠ small.h := ⟨rfl, by decide⟩
theorem witness_ErrorsComeFromFourTransactions :
    let s := { small with phase := .probe, inbox := encode .lenFail }
    step s = .next (after (step s)) ∧ s.phase ≠ .failed ∧ (after (step s)).phase = .failed :=
  ⟨rfl, by decide, by decide⟩
theorem witness_FailedEndsTheRun :
    let s := { small with phase := .failed, err := 3, inbox := encode .start }
    step s = .next (after (step s)) ∧ s.phase = .failed := ⟨rfl, rfl⟩
theorem witness_DigestPortCarriesTheHash :
    small.phase ≠ .done ∧ ({ small with phase := .done }).phase = .done := by decide
theorem witness_DigestPortCarriesTheHash_stable :
    let s := { small with phase := .done, pos := .second, h := romIV }
    step s = .next (after (step s)) ∧ s.phase = .done ∧ (after (step s)).phase = .done :=
  ⟨rfl, rfl, by decide⟩
/-- One byte of each part of the padded message: a letter, the marker, a zero, the last byte of the length. -/
theorem witness_PaddedMessageFormat :
    0 < (letters 3).length ∧ 51 < paddingZeros (letters 3).length ∧ 7 < 8 := by decide
theorem witness_StatusOutputsAtBoundaries : AtBoundary { small with phase := .fill } := by decide
theorem witness_ResetMeetsTheInvariant : Config.standard.Valid ∧ small.cfg.Valid := by decide

/-- A partial chunk of three bytes about to be padded, as a state in the middle of a run. -/
def padding : State :=
  { small with phase := .plan, bytesRead := 3, cbuf := [(0, 0x61), (1, 0x62), (2, 0x63)] }

/-- The last block of a full chunk about to be sliced, with the synthetic block pending. -/
def slicing : State :=
  { small with phase := .slice, bytesRead := 64, nblk := 1, synthPending := true, cbuf := counted 64 }

theorem padding_inv : Inv padding where
  config := by decide
  memory := by decide
  inside := by decide
  position := by decide
  counts := by decide
  plan := by decide
  block := by decide
  fill := by decide
  remaining := by decide
theorem slicing_inv : Inv slicing where
  config := by decide
  memory := by decide +kernel
  inside := by decide +kernel
  position := by decide
  counts := by decide
  plan := by decide
  block := by decide +kernel
  fill := by decide
  remaining := by decide
theorem witness_EveryStepKeepsTheInvariant :
    Inv padding ∧ step padding = .next (after (step padding)) := ⟨padding_inv, rfl⟩
theorem witness_NoStepFaults : Inv slicing := slicing_inv
theorem witness_CountsFitTheirRegisters : Inv slicing := slicing_inv
theorem witness_EveryTransactionTerminates : Inv slicing ∧ slicing.resetIn = false := ⟨slicing_inv, rfl⟩
theorem witness_ConformingAnswersOfARun : 0 < small.cfg.capacity := by decide
/-- A message of one chunk and one byte, presented whole to an engine left in FAILED by an earlier run. -/
theorem witness_RunComputesTheMessageHash :
    let s := { small with phase := .failed, err := 3, inbox := traceBytes (hashTrace 64 (letters 65)) }
    s.cfg.Valid ∧ s.resetIn = false ∧ AtBoundary s ∧ acceptsStart s.phase = true ∧
      (letters 65).length < s.cfg.maxLen ∧
      s.inbox = traceBytes (hashTrace s.cfg.capacity (letters 65)) :=
  ⟨by decide, rfl, by decide, by decide, by decide, rfl⟩

end Sys2Proof.Tests
end

/-! ## Words, the incoming interface, and what a step leaves on the interfaces (spec/00_scope.md) -/

section
namespace Sys2Proof.Machine

/-! ### `add32`, `shr`, `rotr` and byte order as arithmetic (R9 to R13) -/

theorem toNat_add32 (x y : Word) : (add32 x y).toNat = (x.toNat + y.toNat) % 2 ^ 32 :=
  BitVec.toNat_add x y

theorem add32_comm (x y : Word) : add32 x y = add32 y x := BitVec.add_comm x y

theorem add32_assoc (x y z : Word) : add32 (add32 x y) z = add32 x (add32 y z) :=
  BitVec.add_assoc x y z

theorem toNat_shr (x : Word) (n : Nat) : (shr x n).toNat = x.toNat / 2 ^ n := by
  rw [shr, BitVec.toNat_ushiftRight, Nat.shiftRight_eq_div_pow]

/-- Settles O8: `add32` is the addition of `BitVec 32`, and a right shift divides by a power of two. -/
theorem wordAdditionAndShift : Obligations.WordAdditionAndShift :=
  ⟨toNat_add32, fun x y z => ⟨add32_comm x y, add32_assoc x y z⟩, toNat_shr⟩

theorem toNat_rotr (x : Word) (n : Nat) :
    (rotr x n).toNat = ((x.toNat >>> n) ||| (x.toNat <<< (32 - n))) % 2 ^ 32 := by
  have hr : x.toNat >>> n < 2 ^ 32 := (Nat.shiftRight_le x.toNat n).trans_lt x.isLt
  rw [rotr, BitVec.toNat_or, BitVec.toNat_ushiftRight, BitVec.toNat_shiftLeft, Nat.or_mod_two_pow,
    Nat.mod_eq_of_lt hr]

/-- Below `32 - n` a bit of the rotation comes from the right shift, from there on from the left shift. -/
theorem getLsbD_rotr {x : Word} {n i : Nat} (hn : n < 32) (hi : i < 32) :
    (rotr x n).getLsbD i = x.getLsbD ((i + n) % 32) := by
  rw [rotr, BitVec.getLsbD_or, BitVec.getLsbD_ushiftRight, BitVec.getLsbD_shiftLeft]
  by_cases h : i + n < 32
  · rw [Nat.mod_eq_of_lt h, Nat.add_comm n i, decide_eq_true (show i < 32 - n by omega)]
    simp
  · rw [BitVec.getLsbD_of_ge x (n + i) (by omega), decide_eq_true hi,
      decide_eq_false (show ¬ i < 32 - n by omega), show (i + n) % 32 = i - (32 - n) by omega]
    simp

/-- Settles O9, from the two shifts a rotation is made of. -/
theorem rotateRightBits : Obligations.RotateRightBits :=
  fun x n _ hlt => ⟨toNat_rotr x n, fun _ hi => getLsbD_rotr hlt hi⟩

/-- One more byte at the low end of a string of bits, as a number. -/
theorem toNat_append_byte {m : Nat} (x : BitVec m) (b : Byte) :
    (x ++ b).toNat = x.toNat * 2 ^ 8 + b.toNat := by
  rw [BitVec.toNat_append, ← Nat.shiftLeft_add_eq_or_of_lt b.isLt, Nat.shiftLeft_eq]

theorem toNat_be32 (b0 b1 b2 b3 : Byte) : (be32 b0 b1 b2 b3).toNat =
    b0.toNat * 2 ^ 24 + b1.toNat * 2 ^ 16 + b2.toNat * 2 ^ 8 + b3.toNat := by
  rw [be32, toNat_append_byte, toNat_append_byte, toNat_append_byte]
  ring

/-- `bytesBE32` undoes `BE32`: its slices are the digits of the sum to base 256. -/
theorem bytesBE32_be32 (b0 b1 b2 b3 : Byte) : bytesBE32 (be32 b0 b1 b2 b3) = [b0, b1, b2, b3] := by
  have hslice (b : Byte) (k : Nat) (h : (be32 b0 b1 b2 b3).toNat / 2 ^ k % 2 ^ 8 = b.toNat) :
      (be32 b0 b1 b2 b3).extractLsb' k 8 = b :=
    BitVec.eq_of_toNat_eq (by rw [BitVec.extractLsb'_toNat, Nat.shiftRight_eq_div_pow, h])
  rw [bytesBE32, hslice b0 24, hslice b1 16, hslice b2 8, hslice b3 0] <;>
    · rw [toNat_be32]
      omega

/-- Byte `k` of `bytesBE64` as a slice of the value. -/
theorem bytesBE64_getElem (v : BitVec 64) {k : Nat} (hk : k < 8) :
    (bytesBE64 v)[k] = v.extractLsb' (8 * (7 - k)) 8 := by
  interval_cases k <;> rfl

theorem toNat_bytesBE64_getElem (v : BitVec 64) (k : Nat) (hk : k < 8) :
    (bytesBE64 v)[k].toNat = v.toNat / 2 ^ (8 * (7 - k)) % 256 := by
  rw [bytesBE64_getElem, BitVec.extractLsb'_toNat, Nat.shiftRight_eq_div_pow]

/-- Settles O10. -/
theorem byteOrderConversions : Obligations.ByteOrderConversions :=
  ⟨toNat_be32, bytesBE32_be32, fun _ => rfl, toNat_bytesBE64_getElem⟩

/-! ### What each operation that goes on leads to

One inversion lemma per meaning that can stop; `ZFILL` and `SUFFIX` are `memWrite_eq_next`, `SLICE` is
`memReadBlock_eq_next`. -/

theorem execStart_eq_next {s t : State} :
    execStart s = .next t ↔
      acceptsStart s.phase = true ∧ t = enterResting .probe { s with err := 0, h := romIV } := by
  unfold execStart
  split_ifs with hp <;> simp [hp, @eq_comm _ t]

theorem execLen_eq_next {l : BitVec 64} {s t : State} :
    execLen l s = .next t ↔ s.phase = .probe ∧
      ((s.cfg.maxLen ≤ l.toNat ∧ t = raiseError .oversize s) ∨
        (l.toNat < s.cfg.maxLen ∧ t = enterResting .fill (clearMarker
          { s with bytesRemaining := l, lenSuffix := bytesBE64 (8 * l) }))) := by
  unfold execLen
  split_ifs with hp hl
  · simp only [hp, hl, Nat.not_lt.2 hl, Host.Outcome.next.injEq, true_and, false_and, or_false,
      @eq_comm _ t]
  · simp only [hp, hl, Nat.not_le.1 hl, Host.Outcome.next.injEq, true_and, false_and, false_or,
      @eq_comm _ t]
  · simp [hp]

theorem execLenFail_eq_next {s t : State} :
    execLenFail s = .next t ↔ s.phase = .probe ∧ t = raiseError .sizeProbeFail s := by
  unfold execLenFail
  split_ifs with hp <;> simp [hp, @eq_comm _ t]

theorem execRdFail_eq_next {s t : State} :
    execRdFail s = .next t ↔ s.phase = .fill ∧ t = raiseError .readFail s := by
  unfold execRdFail
  split_ifs with hp <;> simp [hp, @eq_comm _ t]

/-- `DATA` raises an error, stops the run (line 3 of R103), or takes the chunk. -/
theorem execData_eq_next {n : BitVec 64} {p : List Byte} {s t : State} :
    execData n p s = .next t ↔ p.length = n.toNat ∧ s.phase = .fill ∧
      ((∃ e, dataError n s = some e ∧ t = raiseError e s) ∨
        (dataError n s = none ∧ (n = 0 ∧ s.markerEmitted = true) ∧ t = enterResting .done s) ∨
        (dataError n s = none ∧ ¬(n = 0 ∧ s.markerEmitted = true) ∧ p.length ≤ s.cfg.capacity ∧
          t = planChunk n { s with cbuf := writeBytes s.cbuf 0 p })) := by
  unfold execData
  by_cases hl : p.length = n.toNat
  swap
  · simp [hl]
  by_cases hp : s.phase = .fill
  swap
  · simp [hl, hp]
  rw [if_pos hl, if_pos hp]
  cases hd : dataError n s with
  | some e => simp [hl, hp, @eq_comm _ t]
  | none =>
    by_cases hm : n = 0 ∧ s.markerEmitted = true
    · simp [hl, hp, hm, @eq_comm _ t]
    · have hm' : ¬(n = 0 && s.markerEmitted) = true := by simpa using hm
      simp only [if_neg hm', andThen_eq_next, memWrite_eq_next, Nat.zero_add, Host.Outcome.next.injEq,
        hl, hp, hm, not_false_eq_true, true_and, false_and, false_or, reduceCtorEq, exists_false,
        exists_eq_left, and_assoc, exists_and_left, @eq_comm _ t]

theorem execMark_eq_next {s t : State} :
    execMark s = .next t ↔ s.bytesRead < s.cfg.capacity ∧
      t = setMarker { s with cbuf := writeBytes s.cbuf s.bytesRead [0x80], used := s.bytesRead + 1 } := by
  simp [execMark, markOffset, andThen_eq_next, memWrite_eq_next, @eq_comm _ t]

theorem execSynth_eq_next {s t : State} :
    execSynth s = .next t ↔
      t = setMarker { s with
        blk := syntheticBlock s.markerEmitted s.lenSuffix
        synthPending := false } := by
  rw [execSynth, Host.Outcome.next.injEq, eq_comm]

theorem execLdw_eq_next {k : BitVec 6} {s t : State} :
    execLdw k s = .next t ↔
      k.toNat < 16 ∧ t = { s with w := s.w.set k.toNat (loadedWord s.blk k.toNat) k.isLt } := by
  unfold execLdw
  split_ifs with hk <;> simp [hk, @eq_comm _ t]

theorem execSched_eq_next {k : BitVec 6} {s t : State} :
    execSched k s = .next t ↔
      16 ≤ k.toNat ∧ t = { s with w := s.w.set k.toNat (recurrenceWord s.w k.toNat) k.isLt } := by
  unfold execSched
  split_ifs with hk <;> simp [hk, @eq_comm _ t]

/-! ### Accesses without a meaning (R14, R38, R64) -/

/-- The offset that is found holds nothing and lies among the 64. -/
theorem firstUnwritten_eq_some {m : Memory} {k a : Nat} (h : firstUnwritten m k = some a) :
    readByte m a = none ∧ k ≤ a ∧ a < k + 64 := by
  have hnone : (readByte m a).isNone = true := List.find?_some (p := fun a => (readByte m a).isNone) h
  have hmem := List.mem_of_find?_eq_some h
  simp only [List.mem_map, List.mem_range] at hmem
  obtain ⟨i, hi, rfl⟩ := hmem
  exact ⟨by simpa using hnone, by omega, by omega⟩

/-- A block inside the buffer of which a byte is unwritten: the read faults at one such byte. -/
theorem memReadBlock_unwritten {k : Nat} {s : State} (hc : k + 64 ≤ s.cfg.capacity)
    (h : ∃ i < 64, readByte s.cbuf (k + i) = none) :
    ∃ a, memReadBlock k s = .fault (.unwrittenByte a) ∧ readByte s.cbuf a = none ∧
      k ≤ a ∧ a < k + 64 := by
  obtain ⟨i, hi, hu⟩ := h
  cases hf : firstUnwritten s.cbuf k with
  | none =>
    have := firstUnwritten_eq_none.1 hf i hi
    simp [hu] at this
  | some a => exact ⟨a, memReadBlock_eq_fault.2 (.inr ⟨hc, a, hf, rfl⟩), firstUnwritten_eq_some hf⟩

/-- Settles O29: the four operations are one store or one block read each, and fault where it does. -/
theorem accessesWithoutMeaningFault : Obligations.AccessesWithoutMeaningFault := by
  intro s
  refine ⟨fun h => ?mark, fun h => ?zfill, fun h => ?suffix, fun h => ?slice,
    memReadBlock_unwritten (k := 64 * s.j)⟩
  case mark => exact andThen_eq_fault.2 (.inl (memWrite_eq_fault.2 ⟨Nat.lt_succ_of_le h, rfl⟩))
  case zfill => exact memWrite_eq_fault.2 ⟨by simpa using h, rfl⟩
  case suffix => exact memWrite_eq_fault.2 ⟨by simpa using h, rfl⟩
  case slice => exact memReadBlock_eq_fault.2 (.inl ⟨h, rfl⟩)

/-! ### Decoding from the incoming interface (R74, R77) -/

theorem imp_of_ite_eq_ok {ε α : Type} {p : Prop} [Decidable p] {a b : Except ε α} {x : α} {q : Prop}
    (ha : p → a = .ok x → q) (hb : b = .ok x → q) : (if p then a else b) = .ok x → q := by
  split
  · exact ha ‹p›
  · exact hb

/-- No branch of the decoder of format U words gives an incoming transaction. -/
theorem incomingOp_of_decodeUop {u low : Byte} {i : Instr} :
    decodeUop u low = .ok i → incomingOp i = false := by
  rw [decodeUop]
  repeat' refine imp_of_ite_eq_ok (fun _ => ?_) ?_
  all_goals rintro ⟨⟩
  all_goals rfl

/-- A header is read as an incoming transaction exactly where its code is one's, and what is left of the bytes
is a tail of them. -/
theorem decodeHeader_ok {c : Byte} {arg : BitVec 64} {bs rest : List Byte} {i : Instr} :
    decodeHeader c arg bs = .ok (i, rest) → incomingOp i = incomingCode c ∧ rest <:+ bs := by
  rw [decodeHeader]
  repeat' refine imp_of_ite_eq_ok (fun _ => ?_) ?_
  all_goals rintro ⟨⟩
  all_goals
    subst c
    refine ⟨rfl, ?_⟩
  any_goals exact List.suffix_rfl
  exact List.drop_suffix _ _

theorem incomingCode_of_uopCode {c : Byte} (h : uopCode c = true) : incomingCode c = false := by
  revert c
  decide

/-- Bytes that decode: a format U word, or a whole header and what it announces. -/
theorem decode_cons_ok {c : Byte} {bs rest : List Byte} {i : Instr}
    (h : decode (c :: bs) = .ok (i, rest)) :
    (uopCode c = true ∧ ∃ low, bs = low :: rest ∧ decodeUop c low = .ok i) ∨
      (uopCode c = false ∧ ∃ b0 b1 b2 b3 b4 b5 b6 b7 bs',
        bs = b0 :: b1 :: b2 :: b3 :: b4 :: b5 :: b6 :: b7 :: bs' ∧
          decodeHeader c (be64 b0 b1 b2 b3 b4 b5 b6 b7) bs' = .ok (i, rest)) := by
  simp only [decode] at h
  split at h
  · rename_i hu
    split at h
    · cases h
    · rename_i low bs'
      cases hd : decodeUop c low with
      | error e => simp [hd, Except.map] at h
      | ok j =>
        simp only [hd, Except.map, Except.ok.injEq, Prod.mk.injEq] at h
        obtain ⟨rfl, rfl⟩ := h
        exact .inl ⟨hu, low, rfl, hd⟩
  · rename_i hu
    split at h
    · split at h
      · exact .inr ⟨by simpa using hu, _, _, _, _, _, _, _, _, _, rfl, h⟩
      · cases h
    · cases h

/-- The first byte says whether what is decoded is an incoming transaction. -/
theorem incomingOp_eq_of_decode {c : Byte} {bs rest : List Byte} {i : Instr}
    (h : decode (c :: bs) = .ok (i, rest)) : incomingOp i = incomingCode c := by
  rcases decode_cons_ok h with ⟨hu, low, -, hd⟩ | ⟨-, _, _, _, _, _, _, _, _, _, -, hd⟩
  · rw [incomingOp_of_decodeUop hd, incomingCode_of_uopCode hu]
  · exact (decodeHeader_ok hd).1

/-- The decoder takes bytes off the front. -/
theorem decode_suffix {bs rest : List Byte} {i : Instr} (h : decode bs = .ok (i, rest)) :
    rest <:+ bs := by
  cases bs with
  | nil => cases h
  | cons c bs =>
    rcases decode_cons_ok h with ⟨-, low, rfl, -⟩ | ⟨-, b0, b1, b2, b3, b4, b5, b6, b7, bs', rfl, hd⟩
    · exact ⟨[c, low], rfl⟩
    · exact (decodeHeader_ok hd).2.trans ⟨[c, b0, b1, b2, b3, b4, b5, b6, b7], rfl⟩

/-! ### A step at a transaction boundary (R16, R17, R60) -/

theorem issuedOp_of_boundary {s : State} (h : AtBoundary s) : issuedOp s = none := by
  obtain ⟨hp, hq⟩ := h
  cases hs : s.phase <;> simp [issuedOp, hs, hq, restingPhase] at hp ⊢

/-- At a boundary what happens next is decided by what has arrived. -/
theorem fetch_of_boundary {s : State} (hr : s.resetIn = false) (hb : AtBoundary s) :
    fetch s = fetchIncoming s := by
  rw [fetch_eq s hr, issuedOp_of_boundary hb]

theorem fetchIncoming_of_decode {s : State} {i : Instr} {rest : List Byte}
    (hd : decode s.inbox = .ok (i, rest)) (hi : incomingOp i = true) :
    fetchIncoming s = .run i { s with inbox := rest } := by
  cases hb : s.inbox with
  | nil => simp [hb, decode] at hd
  | cons c bs =>
    have hcode : incomingCode c = true := by rw [← incomingOp_eq_of_decode (hb ▸ hd), hi]
    simp only [fetchIncoming, hb, hcode, if_true]
    rw [← hb, hd]

/-- What begins like an incoming transaction and does not decode is waited for (log 7). -/
theorem fetchIncoming_of_truncated {s : State} {c : Byte} {bs : List Byte} {e : DecodeError}
    (hb : s.inbox = c :: bs) (hc : incomingCode c = true) (hd : decode (c :: bs) = .error e) :
    fetchIncoming s = .wait := by
  simp only [fetchIncoming, hb, hc, if_true, hd]

/-- A transaction sets the sequencer state itself: nothing is added to its result. -/
theorem sequenced_of_incoming {i : Instr} (h : incomingOp i = true) (r : Result) :
    sequenced i r = r := by
  rcases incomingOp_cases h with rfl | ⟨l, rfl⟩ | rfl | ⟨n, p, rfl⟩ | rfl <;> cases r <;> rfl

/-- Settles O39: at a boundary nothing is issued, so the bytes that have arrived are fetched. -/
theorem stepRunsTheTransaction : Obligations.StepRunsTheTransaction := by
  intro s i rest hr hb hd hi
  rw [step, fetch_of_boundary hr hb, fetchIncoming_of_decode hd hi]
  exact sequenced_of_incoming hi _

/-- Fewer than the 9 bytes of a header are not a transaction yet (R74). -/
theorem decode_short_header {c : Byte} {bs : List Byte} (hc : incomingCode c = true)
    (hlen : bs.length < 8) : ∃ e, decode (c :: bs) = .error e := by
  cases hd : decode (c :: bs) with
  | error e => exact ⟨e, rfl⟩
  | ok r =>
    rcases decode_cons_ok (rest := r.2) hd with ⟨hu, -⟩ | ⟨-, _, _, _, _, _, _, _, _, _, rfl, -⟩
    · simp [incomingCode_of_uopCode hu] at hc
    · simp only [List.length_cons] at hlen
      omega

/-- A header of `DATA n` with fewer than `n` bytes behind it is not a transaction yet (R74). -/
theorem decode_short_payload {n : BitVec 64} {p : List Byte} (h : p.length < n.toNat) :
    decode (headerBytes 0x12 n ++ p) = .error .truncated := by
  rw [decode_headerBytes _ _ _ (by decide) (by decide)]
  simp [decodeHeader, h]

/-- An incoming transaction is a header with an incoming code and, for `DATA`, the payload (R74, R77). -/
theorem encode_incoming {i : Instr} (h : incomingOp i = true) (hw : i.WellFormed) :
    ∃ c arg p, encode i = headerBytes c arg ++ p ∧ incomingCode c = true ∧
      (p = [] ∨ c = 0x12 ∧ p.length = arg.toNat) := by
  rcases incomingOp_cases h with rfl | ⟨l, rfl⟩ | rfl | ⟨n, p, rfl⟩ | rfl
  · exact ⟨0x01, 0, [], rfl, rfl, .inl rfl⟩
  · exact ⟨0x10, l, [], by simp [encode], rfl, .inl rfl⟩
  · exact ⟨0x11, 0, [], rfl, rfl, .inl rfl⟩
  · exact ⟨0x12, n, p, rfl, rfl, .inr ⟨rfl, by simpa [Instr.WellFormed, Instr.wellFormed] using hw⟩⟩
  · exact ⟨0x13, 0, [], rfl, rfl, .inl rfl⟩

/-- A proper beginning of a header and its payload ends inside the header or inside the payload. -/
theorem decode_proper_prefix {i : Instr} (h : incomingOp i = true) (hw : i.WellFormed) {b : Byte}
    {bs : List Byte} (hp : b :: bs <+: encode i) (hne : b :: bs ≠ encode i) :
    incomingCode b = true ∧ ∃ e, decode (b :: bs) = .error e := by
  obtain ⟨c, arg, p, he, hc, hpay⟩ := encode_incoming h hw
  rw [he] at hp hne
  obtain rfl : b = c := (List.cons_prefix_cons.1 hp).1
  refine ⟨hc, ?_⟩
  by_cases hlen : bs.length < 8
  · exact decode_short_header hc hlen
  obtain ⟨q, hq⟩ : headerBytes b arg <+: b :: bs :=
    List.prefix_of_prefix_length_le (List.prefix_append _ p) hp (by
      rw [Laws.EncodedWidth.header_length, List.length_cons]; omega)
  rw [← hq, List.prefix_append_right_inj] at hp
  rw [← hq, ne_eq, List.append_cancel_left_eq] at hne
  rcases hpay with rfl | ⟨rfl, hlen'⟩
  · exact absurd (List.prefix_nil.1 hp) hne
  · have : q.length < p.length :=
      lt_of_le_of_ne hp.length_le fun hl => hne (hp.eq_of_length hl)
    exact ⟨.truncated, hq ▸ decode_short_payload (hlen' ▸ this)⟩

/-- Settles O42: a proper beginning of a transaction does not decode, so the fetch waits. -/
theorem engineWaitsForAWholeTransaction : Obligations.EngineWaitsForAWholeTransaction := by
  intro s i hr hb hi hw hp hne
  refine step_eq_next.2 (.inr (.inl ⟨?_, rfl⟩))
  rw [fetch_of_boundary hr hb]
  cases hin : s.inbox with
  | nil => simp [fetchIncoming, hin]
  | cons c bs =>
    rw [hin] at hp hne
    obtain ⟨hc, e, hd⟩ := decode_proper_prefix hi hw hp hne
    exact fetchIncoming_of_truncated hin hc hd

/-! ### The two interfaces (R16, R59) -/

/-- From `s` to `t` nothing is taken off the incoming interface, and what has been emitted stays emitted. -/
def KeepsInterfaces (s t : State) : Prop := t.inbox = s.inbox ∧ s.outbox <+: t.outbox

namespace KeepsInterfaces

variable {s t u : State}

theorem of_eq (hi : t.inbox = s.inbox) (ho : t.outbox = s.outbox) : KeepsInterfaces s t :=
  ⟨hi, ho ▸ List.prefix_rfl⟩

theorem of_append (hi : t.inbox = s.inbox) {hs : List (BitVec 72)} (ho : t.outbox = s.outbox ++ hs) :
    KeepsInterfaces s t :=
  ⟨hi, ho ▸ List.prefix_append _ _⟩

theorem trans (h : KeepsInterfaces s t) (h' : KeepsInterfaces t u) : KeepsInterfaces s u :=
  ⟨h'.1.trans h.1, h.2.trans h'.2⟩

end KeepsInterfaces

theorem enterResting_keepsInterfaces (p : Phase) (s : State) : KeepsInterfaces s (enterResting p s) :=
  .of_append rfl rfl

theorem raiseError_keepsInterfaces (e : ErrorKind) (s : State) : KeepsInterfaces s (raiseError e s) :=
  .of_append rfl rfl

theorem emit_keepsInterfaces (header : BitVec 72) (s : State) : KeepsInterfaces s (emit header s) :=
  .of_append rfl rfl

theorem planChunk_keepsInterfaces (n : BitVec 64) (s : State) : KeepsInterfaces s (planChunk n s) := by
  simp only [planChunk]
  split <;> exact .of_eq rfl rfl

/-- An operation takes nothing off the incoming interface: the fetch has done so. -/
theorem exec_keepsInterfaces {i : Instr} {s t : State} (h : exec i s = .next t) :
    KeepsInterfaces s t := by
  cases i with
  | start =>
    obtain ⟨-, rfl⟩ := execStart_eq_next.1 h
    exact .of_append rfl rfl
  | len l =>
    obtain ⟨-, ⟨-, rfl⟩ | ⟨-, rfl⟩⟩ := execLen_eq_next.1 h
    · exact raiseError_keepsInterfaces _ s
    · exact .of_append rfl rfl
  | lenFail =>
    obtain ⟨-, rfl⟩ := execLenFail_eq_next.1 h
    exact raiseError_keepsInterfaces _ s
  | data n p =>
    obtain ⟨-, -, ⟨e, -, rfl⟩ | ⟨-, -, rfl⟩ | ⟨-, -, -, rfl⟩⟩ := execData_eq_next.1 h
    · exact raiseError_keepsInterfaces e s
    · exact enterResting_keepsInterfaces .done s
    · exact planChunk_keepsInterfaces n _
  | rdFail =>
    obtain ⟨-, rfl⟩ := execRdFail_eq_next.1 h
    exact raiseError_keepsInterfaces _ s
  | lenReq => cases h; exact emit_keepsInterfaces _ s
  | rdReq c => cases h; exact emit_keepsInterfaces _ s
  | done => cases h; exact emit_keepsInterfaces _ s
  | error e => cases h; exact emit_keepsInterfaces _ s
  | mark =>
    obtain ⟨-, rfl⟩ := execMark_eq_next.1 h
    exact .of_eq rfl rfl
  | zfill =>
    obtain ⟨-, rfl⟩ := memWrite_eq_next.1 h
    exact .of_eq rfl rfl
  | suffix =>
    obtain ⟨-, rfl⟩ := memWrite_eq_next.1 h
    exact .of_eq rfl rfl
  | slice =>
    obtain ⟨-, -, rfl⟩ := memReadBlock_eq_next.1 h
    exact .of_eq rfl rfl
  | synth =>
    obtain rfl := execSynth_eq_next.1 h
    exact .of_eq (setMarker_inbox _) (setMarker_outbox _)
  | ldw k =>
    obtain ⟨-, rfl⟩ := execLdw_eq_next.1 h
    exact .of_eq rfl rfl
  | sched k =>
    obtain ⟨-, rfl⟩ := execSched_eq_next.1 h
    exact .of_eq rfl rfl
  | ldv => cases h; exact .of_eq rfl rfl
  | round k => cases h; exact .of_eq rfl rfl
  | ffwd => cases h; exact .of_eq rfl rfl

theorem afterZfill_keepsInterfaces (s : State) : KeepsInterfaces s (afterZfill s) := by
  unfold afterZfill
  split <;> exact .of_eq rfl rfl

theorem afterScheduleWord_keepsInterfaces (s : State) : KeepsInterfaces s (afterScheduleWord s) := by
  unfold afterScheduleWord
  split <;> exact .of_eq rfl rfl

theorem afterRound_keepsInterfaces (s : State) : KeepsInterfaces s (afterRound s) := by
  unfold afterRound
  split <;> exact .of_eq rfl rfl

theorem afterBlock_keepsInterfaces (s : State) : KeepsInterfaces s (afterBlock s) := by
  unfold afterBlock
  split_ifs
  · exact .of_eq rfl rfl
  · exact .of_eq rfl rfl
  · exact enterResting_keepsInterfaces .fill s

/-- The sequencer takes nothing off the incoming interface, and emits at the end of a chunk only. -/
theorem advance_keepsInterfaces (i : Instr) (s : State) : KeepsInterfaces s (advance i s) := by
  cases i with
  | zfill => exact afterZfill_keepsInterfaces s
  | ldw _ => exact afterScheduleWord_keepsInterfaces s
  | sched _ => exact afterScheduleWord_keepsInterfaces s
  | round _ => exact afterRound_keepsInterfaces s
  | ffwd => exact afterBlock_keepsInterfaces s
  | _ => exact .of_eq rfl rfl

theorem issue_eq_nil_iff {s : State} : issue s = [] ↔ issuedOp s = none := by
  have h := issue_decodes s
  cases ho : issuedOp s with
  | none => simpa [ho] using h
  | some i =>
    rw [ho] at h
    simp [h.1]

/-- Settles O43: only the fetch of an incoming transaction, where nothing is issued, takes bytes off. -/
theorem operationsAreUninterrupted : Obligations.OperationsAreUninterrupted := by
  intro s t h
  rcases step_eq_next.1 h with ⟨-, rfl⟩ | ⟨-, rfl⟩ | ⟨i, s', u, hf, he, rfl⟩
  · exact ⟨fun _ => rfl, List.suffix_rfl, List.prefix_rfl⟩
  · exact ⟨fun _ => rfl, List.suffix_rfl, List.prefix_rfl⟩
  obtain ⟨hin, hout⟩ := (exec_keepsInterfaces he).trans (advance_keepsInterfaces i u)
  obtain ⟨-, ⟨-, rfl⟩ | ⟨hnone, -, rest, hd, rfl⟩⟩ := fetch_eq_run hf
  · exact ⟨fun _ => hin, hin ▸ List.suffix_rfl, hout⟩
  · exact ⟨fun hne => absurd (issue_eq_nil_iff.2 hnone) hne, hin ▸ decode_suffix hd, hout⟩

end Sys2Proof.Machine
end

/-! ## The state: the ROMs, reset, the status outputs, who writes which register (spec/10_state.md) -/

section
namespace Sys2Proof.Machine

/-! ### The two ROMs (R25, R26) -/

/-- `n` is prime where no number from 2 to 17 below it divides it, for `n` below `18^2`. -/
def passesTrialDivision (n : Nat) : Bool :=
  decide (2 ≤ n) && (List.range 18).all fun m => decide (2 ≤ m → m < n → n % m ≠ 0)

theorem passesTrialDivision_iff {n : Nat} (hn : n ≤ 311) :
    passesTrialDivision n = true ↔ n.Prime := by
  have hsqrt : Nat.sqrt n < 18 := Nat.sqrt_lt.2 (by omega)
  simp only [passesTrialDivision, Bool.and_eq_true, decide_eq_true_eq, List.all_eq_true,
    List.mem_range]
  constructor
  · rintro ⟨h2, htrial⟩
    refine Nat.prime_def_le_sqrt.2 ⟨h2, fun m hm hle hdvd => ?_⟩
    have hlt : m < n := hle.trans_lt (Nat.sqrt_lt_self h2)
    exact htrial m (by omega) hm hlt (Nat.mod_eq_zero_of_dvd hdvd)
  · intro hp
    refine ⟨hp.two_le, fun m _ hm hlt hmod => ?_⟩
    exact (Nat.prime_def_lt'.1 hp).2 m hm hlt (Nat.dvd_of_mod_eq_zero hmod)

/-- The written list is what trial division leaves of the numbers up to 311. -/
theorem firstPrimes_eq : firstPrimes = (List.range 312).filter passesTrialDivision := by
  decide

theorem mem_firstPrimes (n : Nat) : n ∈ firstPrimes ↔ n.Prime ∧ n ≤ 311 := by
  rw [firstPrimes_eq, List.mem_filter, List.mem_range, Nat.lt_succ_iff, and_comm]
  exact and_congr_left passesTrialDivision_iff

theorem firstPrimes_ascending : firstPrimes.Pairwise (· < ·) :=
  firstPrimes_eq ▸ List.pairwise_lt_range.filter _

theorem romK_cube_roots : ∀ i : Fin 64, ∃ q < 7,
    (q * 2 ^ 32 + romK[i].toNat) ^ 3 ≤ firstPrimes.getD i 0 * 2 ^ 96 ∧
    firstPrimes.getD i 0 * 2 ^ 96 < (q * 2 ^ 32 + romK[i].toNat + 1) ^ 3 := by
  decide

theorem romIV_square_roots : ∀ i : Fin 8, ∃ q < 5,
    (q * 2 ^ 32 + romIV[i].toNat) ^ 2 ≤ firstPrimes.getD i 0 * 2 ^ 64 ∧
    firstPrimes.getD i 0 * 2 ^ 64 < (q * 2 ^ 32 + romIV[i].toNat + 1) ^ 2 := by
  decide

/-- Settles O15: the primes by trial division, the roots by their bounds, each with its integer part. -/
theorem romsHoldRootsOfPrimes : Obligations.RomsHoldRootsOfPrimes := by
  refine ⟨⟨rfl, firstPrimes_ascending, mem_firstPrimes⟩, fun i hi => ?_, fun i hi => ?_⟩
  · obtain ⟨q, -, hroot⟩ := romK_cube_roots ⟨i, hi⟩
    exact ⟨q, hroot⟩
  · obtain ⟨q, -, hroot⟩ := romIV_square_roots ⟨i, hi⟩
    exact ⟨q, hroot⟩

/-! ### After reset, and at a boundary (R31, R33, R38) -/

/-- Settles O45: the fields of `State.reset`. -/
theorem resetValues : Obligations.ResetValues :=
  ⟨rfl, rfl, rfl, rfl, rfl, rfl, rfl, rfl, rfl, rfl, rfl, by decide⟩

/-- `phase_out` tells the phases apart. -/
theorem phaseOut_eq_iff {s : State} {p : Phase} : phaseOut s = phaseCode p ↔ s.phase = p := by
  rw [phaseOut]
  cases s.phase <;> cases p <;> decide

theorem phaseOut_of_resting {s : State} (h : restingPhase s.phase = true) :
    phaseOut s ∈ ([0, 1, 2, 8, 9] : List (BitVec 4)) := by
  rw [phaseOut]
  cases hp : s.phase <;> simp [hp, restingPhase, phaseCode] at h ⊢

/-- Settles O52: each status bit is a test of the phase, which its code determines. -/
theorem statusOutputsAtBoundaries : Obligations.StatusOutputsAtBoundaries :=
  fun _ ⟨hrest, _⟩ => ⟨phaseOut_of_resting hrest, beq_iff_eq.trans phaseOut_eq_iff.symm,
    beq_iff_eq.trans phaseOut_eq_iff.symm, beq_iff_eq.trans phaseOut_eq_iff.symm,
    beq_iff_eq.trans phaseOut_eq_iff.symm⟩

/-! ### Widths of the counts (R30, R31) -/

theorem capacity_lt_two_pow_countWidth (c : Config) : c.capacity < 2 ^ countWidth c :=
  Nat.lt_log2_self

/-- A chunk is at least one block, so `cw` is at least 7, and six bits fewer hold the number of blocks. -/
theorem blocks_lt_two_pow {c : Config} (hc : c.Valid) :
    c.capacity / 64 < 2 ^ (countWidth c - 6) := by
  obtain ⟨hmod, hpos, -⟩ := hc
  have hlog : 6 ≤ Nat.log2 c.capacity := (Nat.le_log2 (by omega)).2 (by omega)
  have hw : 64 * 2 ^ (countWidth c - 6) = 2 ^ countWidth c := by
    rw [show 64 = 2 ^ 6 from rfl, ← Nat.pow_add, countWidth]
    congr 1
    omega
  have := capacity_lt_two_pow_countWidth c
  omega

/-- Settles O56: the bounds of the invariant against the width of `C`. -/
theorem countsFitTheirRegisters : Obligations.CountsFitTheirRegisters := by
  intro s hinv
  obtain ⟨hread, hused, hnblk, hj⟩ := hinv.counts
  have hbytes := capacity_lt_two_pow_countWidth s.cfg
  have hblocks := blocks_lt_two_pow hinv.config
  exact ⟨hread.trans_lt hbytes, hused.trans_lt hbytes, hnblk.trans_lt hblocks, hj.trans_lt hblocks⟩

/-! ### Who writes which register (R20 to R34) -/

theorem planChunk_full {n : BitVec 64} {s : State} (h : n.toNat = s.cfg.capacity) :
    planChunk n s = startSlicing (planFullChunk
      { s with bytesRead := n.toNat, bytesRemaining := s.bytesRemaining - n }) :=
  if_pos h

theorem planChunk_partial {n : BitVec 64} {s : State} (h : n.toNat ≠ s.cfg.capacity) :
    planChunk n s =
      { s with bytesRead := n.toNat, bytesRemaining := s.bytesRemaining - n,
               phase := .plan, pos := .first } :=
  if_neg h

/-- Taking a chunk writes the counts, `bytes_remaining`, the plan's flag and the sequencer state only. -/
theorem planChunk_frame (n : BitVec 64) (s : State) :
    planChunk n s = { s with
      bytesRead := (planChunk n s).bytesRead, bytesRemaining := (planChunk n s).bytesRemaining,
      nblk := (planChunk n s).nblk, synthPending := (planChunk n s).synthPending,
      phase := (planChunk n s).phase, j := (planChunk n s).j, pos := (planChunk n s).pos } := by
  by_cases h : n.toNat = s.cfg.capacity
  · rw [planChunk_full h]
    rfl
  · rw [planChunk_partial h]

@[simp] theorem incomingOp_start : incomingOp .start = true := rfl
@[simp] theorem incomingOp_len (l : BitVec 64) : incomingOp (.len l) = true := rfl
@[simp] theorem incomingOp_lenFail : incomingOp .lenFail = true := rfl
@[simp] theorem incomingOp_data (n : BitVec 64) (p : List Byte) : incomingOp (.data n p) = true := rfl
@[simp] theorem incomingOp_rdFail : incomingOp .rdFail = true := rfl

/-- Settles O47: what each operation leads to, register by register. -/
theorem onlyTheNamedOperationsWrite : Obligations.OnlyTheNamedOperationsWrite := by
  intro i s t h
  cases i with
  | start =>
    obtain ⟨-, rfl⟩ := execStart_eq_next.1 h
    simp
  | len l =>
    obtain ⟨-, ⟨-, rfl⟩ | ⟨-, rfl⟩⟩ := execLen_eq_next.1 h <;> simp
  | lenFail =>
    obtain ⟨-, rfl⟩ := execLenFail_eq_next.1 h
    simp
  | data n p =>
    obtain ⟨-, -, ⟨e, -, rfl⟩ | ⟨-, -, rfl⟩ | ⟨-, -, -, rfl⟩⟩ := execData_eq_next.1 h
    · simp
    · simp
    · rw [planChunk_frame]
      simp
  | rdFail =>
    obtain ⟨-, rfl⟩ := execRdFail_eq_next.1 h
    simp
  | lenReq | rdReq _ | done | error _ | ldv | round _ | ffwd =>
    cases h
    simp
  | mark =>
    obtain ⟨-, rfl⟩ := execMark_eq_next.1 h
    simp
  | zfill | suffix =>
    obtain ⟨-, rfl⟩ := memWrite_eq_next.1 h
    simp
  | slice =>
    obtain ⟨-, -, rfl⟩ := memReadBlock_eq_next.1 h
    simp
  | synth =>
    obtain rfl := execSynth_eq_next.1 h
    simp
  | ldw k =>
    obtain ⟨-, rfl⟩ := execLdw_eq_next.1 h
    simp
  | sched k =>
    obtain ⟨-, rfl⟩ := execSched_eq_next.1 h
    simp

end Sys2Proof.Machine
end

/-! ## Every step keeps the invariant (spec/10_state.md R27 to R31, spec/20_memory.md R64) -/

section
namespace Sys2Proof.Machine

/-! ### The invariant, by the kind of phase (R31, R110, R117) -/

/-- The part of the invariant that holds in every phase: it speaks of the parameters, the chunk buffer and the
counts alone, so an update of any other register keeps it as it is. -/
def BufferInv (s : State) : Prop :=
  s.cfg.Valid ∧ Memory.wf s.cbuf ∧ (∀ c ∈ s.cbuf, c.1 < s.cfg.capacity) ∧ CountInv s

theorem Inv.buffer {s : State} (h : Inv s) : BufferInv s := ⟨h.config, h.memory, h.inside, h.counts⟩

/-- `BufferInv` where the counts have changed. -/
theorem BufferInv.counts {s : State} (h : BufferInv s) {r u n j : Nat}
    (hcount : r ≤ s.cfg.capacity ∧ u ≤ s.cfg.capacity ∧ n ≤ s.cfg.capacity / 64 ∧
      j ≤ s.cfg.capacity / 64) :
    BufferInv { s with bytesRead := r, used := u, nblk := n, j := j } := by
  obtain ⟨hcfg, hwf, hin, -⟩ := h
  exact ⟨hcfg, hwf, hin, hcount⟩

/-- The first operation of a row is a legal position in every phase. -/
theorem posLegal_of_first {s : State} (h : s.pos = .first) : posLegal s = true := by
  unfold posLegal
  cases s.phase <;> simp [h]

theorem Inv.of_boundary {s : State} (hbuf : BufferInv s) (hb : AtBoundary s)
    (hfill : s.phase = .fill → FillInv s) : Inv s := by
  obtain ⟨hcfg, hwf, hin, hcount⟩ := hbuf
  obtain ⟨hrest, hpos⟩ := hb
  have hplan : s.phase ≠ .plan := by
    intro hp
    simp [hp, restingPhase] at hrest
  have hblock : blockPhase s.phase ≠ true := by
    cases hp : s.phase <;> simp [hp, restingPhase, blockPhase] at hrest ⊢
  exact {
    config := hcfg, memory := hwf, inside := hin, counts := hcount
    position := posLegal_of_first hpos
    plan := fun h => absurd h hplan
    block := fun h => absurd h hblock
    fill := hfill
    remaining := fun h => absurd h (not_or.2 ⟨hplan, hblock⟩) }

theorem Inv.of_plan {s : State} (hbuf : BufferInv s) (hp : s.phase = .plan) (hplan : PlanInv s)
    (hrem : s.bytesRemaining.toNat < s.cfg.maxLen) : Inv s := by
  obtain ⟨hcfg, hwf, hin, hcount⟩ := hbuf
  exact {
    config := hcfg, memory := hwf, inside := hin, counts := hcount
    position := by simp [posLegal, hp]
    plan := fun _ => hplan
    block := fun h => by simp [hp, blockPhase] at h
    fill := fun h => by simp [hp] at h
    remaining := fun _ => hrem }

theorem Inv.of_block {s : State} (hbuf : BufferInv s) (hp : blockPhase s.phase = true)
    (hpos : posLegal s = true) (hblock : BlockInv s)
    (hrem : s.bytesRemaining.toNat < s.cfg.maxLen) : Inv s := by
  obtain ⟨hcfg, hwf, hin, hcount⟩ := hbuf
  exact {
    config := hcfg, memory := hwf, inside := hin, counts := hcount
    position := hpos
    plan := fun h => by simp [h, blockPhase] at hp
    block := fun _ => hblock
    fill := fun h => by simp [h, blockPhase] at hp
    remaining := fun _ => hrem }

/-- The registers of the datapath and the incoming interface play no part in the invariant. -/
theorem Inv.set_datapath {s : State} (hi : Inv s) (h v : Vector Word 8) (w : Vector Word 64)
    (blk : Vector Byte 64) (inbox : List Byte) :
    Inv { s with h := h, v := v, w := w, blk := blk, inbox := inbox } :=
  { hi with }

/-- A store unwrites nothing. -/
theorem writeBytes_keeps_written {m : Memory} {n : Nat} (h : Written m n) (k : Nat) (bs : List Byte) :
    Written (writeBytes m k bs) n := by
  intro a ha
  rw [readByte_writeBytes]
  split
  · rw [List.getElem?_eq_getElem (by omega)]
    rfl
  · exact h a ha

/-- In every phase a store inside the buffer keeps the invariant. -/
theorem Inv.write {s : State} (hi : Inv s) {k : Nat} {bs : List Byte}
    (hk : k + bs.length ≤ s.cfg.capacity) :
    Inv { s with cbuf := writeBytes s.cbuf k bs } := by
  refine { hi with
    memory := writeBytes_wf hi.memory k bs
    inside := inside_writeBytes hi.inside hk
    plan := fun hp => ?_
    block := fun hp => ?_ }
  · obtain ⟨hpart, hzero, hreal, hmark, hfill⟩ := hi.plan hp
    refine ⟨hpart, hzero, writeBytes_keeps_written hreal k bs, fun hpos => ?_, fun hpos => ?_⟩
    · exact (hmark hpos).imp_right (And.imp_right (writeBytes_keeps_written · k bs))
    · exact (hfill hpos).imp_right (writeBytes_keeps_written · k bs)
  · exact (hi.block hp).imp_right (And.imp_left (writeBytes_keeps_written · k bs))

theorem Inv.atBoundary {s : State} (hi : Inv s) (hp : restingPhase s.phase = true) : AtBoundary s := by
  have hpos := hi.position
  unfold posLegal at hpos
  refine ⟨hp, ?_⟩
  cases h : s.phase <;> simp [h, restingPhase] at hp hpos <;> exact hpos

/-- Settles O53: IDLE with an empty buffer and zero counts. -/
theorem resetMeetsTheInvariant : Obligations.ResetMeetsTheInvariant := fun _ hc =>
  Inv.of_boundary ⟨hc, List.Pairwise.nil, by simp, by simp [CountInv]⟩ ⟨rfl, rfl⟩ (by simp)

/-! ### Incoming transactions -/

theorem inv_raiseError {s : State} (hi : Inv s) (e : ErrorKind) : Inv (raiseError e s) :=
  Inv.of_boundary hi.buffer ⟨rfl, rfl⟩ (by simp)

/-- The first block of a planned chunk, (SLICE, 0, -) of R117. -/
theorem inv_startSlicing {s : State} (hbuf : BufferInv s) (hone : 1 ≤ s.nblk)
    (hwritten : Written s.cbuf (64 * s.nblk))
    (hlast : s.synthPending = true ∨ s.markerEmitted = true → s.bytesRemaining = 0)
    (hrem : s.bytesRemaining.toNat < s.cfg.maxLen) : Inv (startSlicing s) := by
  obtain ⟨hcfg, hwf, hin, hread, hused, hnblk, -⟩ := hbuf
  refine Inv.of_block ⟨hcfg, hwf, hin, hread, hused, hnblk, Nat.zero_le _⟩ rfl rfl ?_ hrem
  exact ⟨hone, hwritten, Nat.zero_le _, fun _ => hone, by simp,
    fun h0 => absurd h0 (Nat.ne_of_lt hone), fun h => hlast (.inl h), fun h => hlast (.inr h)⟩

/-- The blocks of a whole chunk (R109, R110). -/
theorem capacity_blocks {c : Config} (hc : c.Valid) :
    1 ≤ c.capacity / 64 ∧ 64 * (c.capacity / 64) = c.capacity := by
  obtain ⟨hmod, hpos, -⟩ := hc
  omega

/-- A chunk that `DATA` has stored: a full one is sliced, a partial one is the last and is padded. -/
theorem inv_planChunk {s : State} (hi : Inv s) (hp : s.phase = .fill) {n : BitVec 64}
    (hwritten : Written s.cbuf n.toNat) (herr : dataError n s = none)
    (htake : ¬(n = 0 ∧ s.markerEmitted = true)) : Inv (planChunk n s) := by
  obtain ⟨hrem, hmarker⟩ := hi.fill hp
  obtain ⟨-, hused, hnblk, hj⟩ := hi.counts
  obtain ⟨hone, hblocks⟩ := capacity_blocks hi.config
  obtain ⟨hcap, hle, h⟩ := dataError_eq_none herr
  obtain ⟨-, hshort⟩ := h.resolve_left htake
  have hrem' : (s.bytesRemaining - n).toNat < s.cfg.maxLen := by
    rw [BitVec.toNat_sub_of_le hle]
    omega
  by_cases hfull : n.toNat = s.cfg.capacity
  · rw [planChunk_full hfull]
    refine inv_startSlicing (hi.buffer.counts ⟨hcap, hused, le_rfl, hj⟩) hone ?_ ?_ hrem'
    · rw [planFullChunk_nblk, hblocks, ← hfull]
      exact hwritten
    · rintro (hsynth | hmark)
      · simpa using hsynth
      · have h0 : n.toNat = 0 := by simpa [hmarker hmark] using hle
        omega
  · rw [planChunk_partial hfull]
    have hlt := lt_of_le_of_ne hcap hfull
    refine Inv.of_plan (hi.buffer.counts ⟨hcap, hused, hnblk, hj⟩) rfl ?_ hrem'
    exact ⟨hlt, hshort hlt, hwritten, by simp, by simp⟩

/-- An incoming transaction that is accepted ends in a resting phase, or begins a chunk. -/
theorem inv_of_incoming {i : Instr} {s t : State} (hi : Inv s) (hin : incomingOp i = true)
    (h : exec i s = .next t) : Inv t := by
  rcases incomingOp_cases hin with rfl | ⟨l, rfl⟩ | rfl | ⟨n, p, rfl⟩ | rfl
  · obtain ⟨-, rfl⟩ := execStart_eq_next.1 h
    exact Inv.of_boundary hi.buffer ⟨rfl, rfl⟩ (by simp)
  · obtain ⟨-, ⟨-, rfl⟩ | ⟨hl, rfl⟩⟩ := execLen_eq_next.1 h
    · exact inv_raiseError hi _
    · exact Inv.of_boundary hi.buffer ⟨rfl, rfl⟩ fun _ => ⟨hl, by simp⟩
  · obtain ⟨-, rfl⟩ := execLenFail_eq_next.1 h
    exact inv_raiseError hi _
  · obtain ⟨hlen, hp, ⟨e, -, rfl⟩ | ⟨-, -, rfl⟩ | ⟨herr, htake, hk, rfl⟩⟩ := execData_eq_next.1 h
    · exact inv_raiseError hi e
    · exact Inv.of_boundary hi.buffer ⟨rfl, rfl⟩ (by simp)
    · have hwritten : Written (writeBytes s.cbuf 0 p) n.toNat :=
        written_writeBytes (fun _ h => absurd h (Nat.not_lt_zero _)) (by omega)
      exact inv_planChunk (hi.write (by omega)) hp hwritten herr htake
  · obtain ⟨-, rfl⟩ := execRdFail_eq_next.1 h
    exact inv_raiseError hi _

/-! ### The PLAN row -/

theorem inv_mark {s t : State} (hi : Inv s) (hp : s.phase = .plan) (h : exec .mark s = .next t) :
    Inv (advance .mark t) := by
  obtain ⟨hcap, rfl⟩ := execMark_eq_next.1 h
  obtain ⟨-, hzero, hwritten, -⟩ := hi.plan hp
  obtain ⟨hread, -, hnblk, hj⟩ := hi.counts
  have hmarked : Written (writeBytes s.cbuf s.bytesRead [0x80]) (s.bytesRead + 1) :=
    written_writeBytes hwritten le_rfl
  have hstored := hi.write (k := s.bytesRead) (bs := [0x80]) hcap
  refine Inv.of_plan (hstored.buffer.counts ⟨hread, hcap, hnblk, hj⟩) hp ?_ (hi.remaining (.inl hp))
  exact ⟨hcap, hzero, writeBytes_keeps_written hwritten _ _, fun _ => ⟨rfl, rfl, hmarked⟩,
    by simp [advance]⟩

/-- After `ZFILL` the chunk is filled up where the suffix does not fit, else the zeros before it are there. -/
theorem inv_afterZfill {s : State} (hi : Inv s) (hp : s.phase = .plan) (hpos : s.pos ≠ .first)
    (hfilled : Written s.cbuf (s.used + zfillCount s)) : Inv (afterZfill s) := by
  have hrem := hi.remaining (.inl hp)
  obtain ⟨hpart, hzero, hreal, hmarked, -⟩ := hi.plan hp
  obtain ⟨hread, hused, -, hj⟩ := hi.counts
  obtain ⟨hone, hblocks⟩ := capacity_blocks hi.config
  unfold zfillCount at hfilled
  unfold afterZfill
  split
  case isTrue hover =>
    rw [if_pos hover, Nat.add_sub_cancel' hused] at hfilled
    refine inv_startSlicing (hi.buffer.counts ⟨hread, hused, le_rfl, hj⟩) hone ?_ (fun _ => hzero) hrem
    change Written s.cbuf (64 * (s.cfg.capacity / 64))
    rwa [hblocks]
  case isFalse hfit =>
    rw [if_neg hfit] at hfilled
    have hroom : 8 ≤ s.cfg.capacity - s.used := by simpa [suffixOverflows] using hfit
    exact Inv.of_plan hi.buffer hp
      ⟨hpart, hzero, hreal, fun _ => hmarked hpos, fun _ => ⟨hroom, hfilled⟩⟩ hrem

theorem inv_zfill {s t : State} (hi : Inv s) (hp : s.phase = .plan) (hpos : s.pos = .second)
    (h : exec .zfill s = .next t) : Inv (advance .zfill t) := by
  obtain ⟨hk, rfl⟩ := memWrite_eq_next.1 h
  have hpos' : s.pos ≠ .first := by simp [hpos]
  obtain ⟨-, -, -, hmarked, -⟩ := hi.plan hp
  obtain ⟨-, -, hwritten⟩ := hmarked hpos'
  have hfilled : Written (writeBytes s.cbuf s.used (List.replicate (zfillCount s) 0))
      (s.used + zfillCount s) := written_writeBytes hwritten (by simp)
  exact inv_afterZfill (hi.write hk) hp hpos' hfilled

theorem sixtyFour_mul_fittingBlocks (s : State) : 64 * fittingBlocks s = s.used + padZeros s.used + 8 := by
  unfold fittingBlocks padZeros
  split <;> omega

theorem inv_suffix {s t : State} (hi : Inv s) (hp : s.phase = .plan) (hpos : s.pos = .third)
    (h : exec .suffix s = .next t) : Inv (advance .suffix t) := by
  obtain ⟨hk, rfl⟩ := memWrite_eq_next.1 h
  obtain ⟨-, hzero, -, -, hfilled⟩ := hi.plan hp
  obtain ⟨hroom, hwritten⟩ := hfilled hpos
  obtain ⟨hread, hused, -, hj⟩ := hi.counts
  obtain ⟨hmod, -⟩ := hi.config
  have hblocks := sixtyFour_mul_fittingBlocks s
  have hfits := padding_fits hmod (Nat.add_le_of_le_sub' hused hroom)
  have hend : Written (writeBytes s.cbuf (s.used + padZeros s.used) s.lenSuffix.toList)
      (64 * fittingBlocks s) := written_writeBytes hwritten (by simp [hblocks])
  refine inv_startSlicing ((hi.write hk).buffer.counts ⟨hread, hused, ?_, hj⟩) ?_ hend (fun _ => hzero)
    (hi.remaining (.inl hp))
  · change fittingBlocks s ≤ s.cfg.capacity / 64
    omega
  · change 1 ≤ fittingBlocks s
    omega

/-! ### The blocks of a chunk -/

/-- From a block of the chunk to an operation of EXPAND or COMPRESS; the synthetic block has its own rule,
since `SYNTH` writes the flags. -/
theorem inv_processing {s : State} (hi : Inv s) (hp : blockPhase s.phase = true) (hne : s.phase ≠ .synth)
    {p : Phase} (hproc : p = .expand ∨ p = .compress) {k : BitVec 6} {q : Pos}
    (hq : q = .first ∨ q = .second ∧ k = 63) : Inv { s with phase := p, t := k, pos := q } := by
  obtain ⟨hone, hwritten, hj, -, -, hlast, hsynth, hmark⟩ := hi.block hp
  have hrem := hi.remaining (.inr hp)
  have hrow : BlockInv { s with phase := p, t := k, pos := q } := by
    refine ⟨hone, hwritten, hj, ?_, ?_, fun h _ => hlast h hne, hsynth, hmark⟩ <;>
      · rcases hproc with rfl | rfl <;> simp
  rcases hproc with rfl | rfl
  · exact Inv.of_block hi.buffer rfl (by simpa [posLegal] using hq) hrow hrem
  · exact Inv.of_block hi.buffer rfl (by simpa [posLegal] using hq) hrow hrem

/-- After `SYNTH`: its flag is clear, so no other synthetic block follows, and the marker's is set, where
nothing remains. -/
theorem inv_afterSynth {s : State} (hi : Inv s) (hp : s.phase = .synth) :
    Inv (startExpand (setMarker { s with synthPending := false })) := by
  have hblock : blockPhase s.phase = true := by simp [hp, blockPhase]
  obtain ⟨hone, hwritten, hj, -, hpending, -, hzero, -⟩ := hi.block hblock
  obtain ⟨-, hflag⟩ := hpending hp
  have hdone : s.bytesRemaining = 0 := hzero hflag
  exact Inv.of_block hi.buffer rfl rfl ⟨hone, hwritten, hj, by simp, by simp, fun _ _ => rfl,
    fun _ => hdone, fun _ => hdone⟩ (hi.remaining (.inr hblock))

theorem blockPhase_of_processing {p : Phase} (h : p = .expand ∨ p = .compress) :
    blockPhase p = true ∧ p ≠ .synth := by
  rcases h with rfl | rfl <;> decide

theorem inv_afterScheduleWord {s : State} (hi : Inv s) (hp : s.phase = .expand ∨ s.phase = .compress) :
    Inv (afterScheduleWord s) := by
  obtain ⟨hblock, hne⟩ := blockPhase_of_processing hp
  unfold afterScheduleWord
  split
  case isTrue => exact inv_processing hi hblock hne hp (.inl rfl)
  case isFalse h =>
    have ht : s.t = 63 := BitVec.eq_of_toNat_eq (by have := s.t.isLt; simp; omega)
    exact inv_processing hi hblock hne hp (.inr ⟨rfl, ht⟩)

/-- The round index of R117 counts as the word index does. -/
theorem inv_afterRound {s : State} (hi : Inv s) (hp : s.phase = .compress) : Inv (afterRound s) :=
  inv_afterScheduleWord hi (.inr hp)

/-- After a block: the next one, the synthetic one, or the end of the chunk. -/
theorem inv_afterBlock {s : State} (hi : Inv s) (hp : s.phase = .compress) : Inv (afterBlock s) := by
  have hblock : blockPhase s.phase = true := by simp [hp, blockPhase]
  have hrem := hi.remaining (.inr hblock)
  obtain ⟨hread, hused, hnblk, hj⟩ := hi.counts
  obtain ⟨hone, hwritten, -, -, -, -, hsynth, hmark⟩ := hi.block hblock
  unfold afterBlock
  split_ifs with hnext hpending
  · have hcounts := hi.buffer.counts ⟨hread, hused, hnblk, (hnext.le.trans hnblk : s.j + 1 ≤ _)⟩
    exact Inv.of_block hcounts rfl rfl ⟨hone, hwritten, hnext.le, fun _ => hnext, by simp,
      fun h => absurd h hnext.ne, hsynth, hmark⟩ hrem
  · obtain ⟨-, hflag⟩ : s.j + 1 = s.nblk ∧ s.synthPending = true := by simpa using hpending
    have hcounts := hi.buffer.counts ⟨hread, hused, hnblk, hnblk⟩
    exact Inv.of_block hcounts rfl rfl ⟨hone, hwritten, le_rfl, by simp, fun _ => ⟨rfl, hflag⟩,
      by simp, hsynth, hmark⟩ hrem
  · exact Inv.of_boundary hi.buffer ⟨rfl, rfl⟩ fun _ => ⟨hrem, hmark⟩

/-- An operation that the sequencer issues, with the move to the next one. -/
theorem inv_of_issued {i : Instr} {s t : State} (hi : Inv s) (hissued : issuedOp s = some i)
    (h : exec i s = .next t) : Inv (advance i t) := by
  have hactive : restingPhase s.phase = false := by
    by_contra hrest
    simp [issuedOp_of_boundary (hi.atBoundary (by simpa using hrest))] at hissued
  have hrow := issuedOp_cases hissued
  cases i with
  | start | len _ | lenFail | data _ _ | rdFail => simp at hrow
  | lenReq | rdReq _ | done | error _ =>
    simp only [reduceCtorEq, false_and, or_false, false_or, true_and] at hrow
    simp [hrow, restingPhase] at hactive
  | mark =>
    obtain ⟨hp, -⟩ : s.phase = .plan ∧ s.pos = .first := by simpa using hrow
    exact inv_mark hi hp h
  | zfill =>
    obtain ⟨hp, hpos⟩ : s.phase = .plan ∧ s.pos = .second := by simpa using hrow
    exact inv_zfill hi hp hpos h
  | suffix =>
    obtain ⟨hp, hpos⟩ : s.phase = .plan ∧ s.pos = .third := by simpa using hrow
    exact inv_suffix hi hp hpos h
  | slice =>
    have hp : s.phase = .slice := by simpa using hrow
    obtain ⟨-, -, rfl⟩ := memReadBlock_eq_next.1 h
    exact inv_processing (hi.set_datapath s.h s.v s.w _ s.inbox) (by simp [hp, blockPhase]) (by simp [hp])
      (.inl rfl) (.inl rfl)
  | synth =>
    have hp : s.phase = .synth := by simpa using hrow
    rw [execSynth_eq_next.1 h]
    generalize syntheticBlock s.markerEmitted s.lenSuffix = blk
    exact inv_afterSynth (hi.set_datapath s.h s.v s.w blk s.inbox) hp
  | ldw k =>
    obtain ⟨-, hp, -⟩ : k = s.t ∧ s.phase = .expand ∧ s.pos = .first ∧ s.t.toNat < 16 := by
      simpa using hrow
    obtain ⟨-, rfl⟩ := execLdw_eq_next.1 h
    exact inv_afterScheduleWord (hi.set_datapath s.h s.v _ s.blk s.inbox) (.inl hp)
  | sched k =>
    obtain ⟨-, hp, -⟩ : k = s.t ∧ s.phase = .expand ∧ s.pos = .first ∧ 16 ≤ s.t.toNat := by
      simpa using hrow
    obtain ⟨-, rfl⟩ := execSched_eq_next.1 h
    exact inv_afterScheduleWord (hi.set_datapath s.h s.v _ s.blk s.inbox) (.inl hp)
  | ldv =>
    obtain ⟨hp, -⟩ : s.phase = .expand ∧ s.pos ≠ .first := by simpa using hrow
    cases h
    exact inv_processing (hi.set_datapath s.h s.h s.w s.blk s.inbox) (by simp [hp, blockPhase])
      (by simp [hp]) (.inr rfl) (.inl rfl)
  | round k =>
    obtain ⟨-, hp, -⟩ : k = s.t ∧ s.phase = .compress ∧ s.pos = .first := by simpa using hrow
    cases h
    exact inv_afterRound (hi.set_datapath s.h _ s.w s.blk s.inbox) hp
  | ffwd =>
    obtain ⟨hp, -⟩ : s.phase = .compress ∧ s.pos ≠ .first := by simpa using hrow
    cases h
    exact inv_afterBlock (hi.set_datapath _ s.v s.w s.blk s.inbox) hp

/-! ### The step -/

/-- The reset event leaves the interfaces alone, which the invariant does not speak of. -/
theorem inv_applyReset {s : State} (hc : s.cfg.Valid) : Inv (applyReset s) :=
  { resetMeetsTheInvariant s.cfg hc with }

/-- A transaction sets the sequencer state itself. -/
theorem advance_of_incoming {i : Instr} (h : incomingOp i = true) (s : State) : advance i s = s := by
  rcases incomingOp_cases h with rfl | ⟨l, rfl⟩ | rfl | ⟨n, p, rfl⟩ | rfl <;> rfl

/-- Settles O54: reset, waiting, an issued operation and an incoming transaction each keep the invariant. -/
theorem everyStepKeepsTheInvariant : Obligations.EveryStepKeepsTheInvariant := by
  intro s t hi h
  rcases step_eq_next.1 h with ⟨-, rfl⟩ | ⟨-, rfl⟩ | ⟨i, s', u, hf, he, rfl⟩
  · exact inv_applyReset hi.config
  · exact hi
  obtain ⟨-, ⟨hissued, rfl⟩ | ⟨-, hin, rest, -, rfl⟩⟩ := fetch_eq_run hf
  · exact inv_of_issued hi hissued he
  · rw [advance_of_incoming hin]
    exact inv_of_incoming (hi.set_datapath s.h s.v s.w s.blk rest) hin he

end Sys2Proof.Machine
end

/-! ## No step faults where the invariant holds (spec/20_memory.md R64) -/

section
namespace Sys2Proof.Machine

/-! ### Which operations can fault (R14, R64, R66) -/

/-- A store that ends inside the buffer does not fault. -/
theorem memWrite_ne_fault {k : Nat} {bs : List Byte} {s : State} {x : Fault}
    (h : k + bs.length ≤ s.cfg.capacity) : memWrite k bs s ≠ .fault x :=
  fun hf => Nat.not_lt.2 h (memWrite_eq_fault.1 hf).1

/-- A read of 64 written bytes inside the buffer does not fault. -/
theorem memReadBlock_ne_fault {k : Nat} {s : State} {x : Fault} (hk : k + 64 ≤ s.cfg.capacity)
    (hw : Written s.cbuf (k + 64)) : memReadBlock k s ≠ .fault x := by
  rw [memReadBlock_eq_next.2 ⟨hk, fun i hi => hw (k + i) (by omega), rfl⟩]
  simp

/-- The checks of `DATA` admit no payload longer than the buffer. -/
theorem execData_ne_fault (n : BitVec 64) (p : List Byte) (s : State) (x : Fault) :
    execData n p s ≠ .fault x := by
  unfold execData
  split
  case isFalse => simp
  rename_i hlen
  split
  case isFalse => simp
  cases hd : dataError n s with
  | some e => simp
  | none =>
    obtain ⟨hcap, -⟩ := dataError_eq_none hd
    have hstore : memWrite 0 p s ≠ .fault x := memWrite_ne_fault (by omega)
    dsimp only
    split
    · simp
    · simp [andThen_eq_fault, hstore]

theorem execMark_eq_fault {s : State} {x : Fault} :
    execMark s = .fault x ↔ memWrite (markOffset s) [0x80] s = .fault x := by
  simp [execMark, andThen_eq_fault]

/-- Only the four accesses whose place is computed from the engine's registers can fault. -/
theorem exec_eq_fault {i : Instr} {s : State} {x : Fault} (h : exec i s = .fault x) :
    (i = .mark ∧ memWrite (markOffset s) [0x80] s = .fault x) ∨
    (i = .zfill ∧ memWrite (zfillOffset s) (List.replicate (zfillCount s) 0) s = .fault x) ∨
    (i = .suffix ∧ memWrite (suffixOffset s) s.lenSuffix.toList s = .fault x) ∨
    (i = .slice ∧ memReadBlock (sliceOffset s) s = .fault x) := by
  cases i with
  | mark => exact .inl ⟨rfl, execMark_eq_fault.1 h⟩
  | zfill => exact .inr (.inl ⟨rfl, h⟩)
  | suffix => exact .inr (.inr (.inl ⟨rfl, h⟩))
  | slice => exact .inr (.inr (.inr ⟨rfl, h⟩))
  | data n p => exact absurd h (execData_ne_fault n p s x)
  | start | len _ | lenFail | rdFail | ldw _ | sched _ =>
    simp only [exec, execStart, execLen, execLenFail, execRdFail, execLdw, execSched] at h
    split_ifs at h
  | lenReq | rdReq _ | done | error _ | synth | ldv | round _ | ffwd => cases h

/-! ### Where the four accesses lie (R66, R110) -/

/-- The zeros end at the end of the chunk, or where the suffix that fits begins. -/
theorem zfill_inside {s : State} (hi : Inv s) : zfillOffset s + zfillCount s ≤ s.cfg.capacity := by
  obtain ⟨-, hused, -⟩ := hi.counts
  obtain ⟨hmod, -⟩ := hi.config
  unfold zfillOffset zfillCount
  split
  case isTrue => exact (Nat.add_sub_cancel' hused).le
  case isFalse hfit =>
    have hroom : 8 ≤ s.cfg.capacity - s.used := by simpa [suffixOverflows] using hfit
    have hfits := padding_fits hmod (Nat.add_le_of_le_sub' hused hroom)
    omega

theorem suffix_inside {s : State} (hi : Inv s) (hp : s.phase = .plan) (hpos : s.pos = .third) :
    suffixOffset s + 8 ≤ s.cfg.capacity := by
  obtain ⟨-, -, -, -, hfilled⟩ := hi.plan hp
  obtain ⟨hroom, -⟩ := hfilled hpos
  obtain ⟨-, hused, -⟩ := hi.counts
  obtain ⟨hmod, -⟩ := hi.config
  exact padding_fits hmod (Nat.add_le_of_le_sub' hused hroom)

/-- The block at `j` is one of the chunk's, all of which are inside the buffer and written. -/
theorem slice_inside {s : State} (hi : Inv s) (hp : s.phase = .slice) :
    sliceOffset s + 64 ≤ s.cfg.capacity ∧ Written s.cbuf (sliceOffset s + 64) := by
  obtain ⟨-, hwritten, -, hnext, -⟩ := hi.block (by simp [hp, blockPhase])
  obtain ⟨-, -, hnblk, -⟩ := hi.counts
  have hj := hnext hp
  unfold sliceOffset
  exact ⟨by omega, fun k hk => hwritten k (by omega)⟩

/-! ### The step -/

/-- A transaction does not fault, in any state. -/
theorem exec_incoming_ne_fault {i : Instr} (hin : incomingOp i = true) (s : State) (x : Fault) :
    exec i s ≠ .fault x := by
  intro h
  rcases exec_eq_fault h with ⟨rfl, -⟩ | ⟨rfl, -⟩ | ⟨rfl, -⟩ | ⟨rfl, -⟩ <;> cases hin

/-- Where the sequencer issues one of the four accesses, the invariant bounds its place. -/
theorem exec_issued_ne_fault {i : Instr} {s : State} (hi : Inv s) (hissued : issuedOp s = some i)
    (x : Fault) : exec i s ≠ .fault x := by
  intro h
  have hrow := issuedOp_cases hissued
  rcases exec_eq_fault h with ⟨rfl, hf⟩ | ⟨rfl, hf⟩ | ⟨rfl, hf⟩ | ⟨rfl, hf⟩
  · obtain ⟨hp, -⟩ : s.phase = .plan ∧ s.pos = .first := by simpa using hrow
    obtain ⟨hpart, -⟩ := hi.plan hp
    exact memWrite_ne_fault hpart hf
  · exact memWrite_ne_fault (by simpa using zfill_inside hi) hf
  · obtain ⟨hp, hpos⟩ : s.phase = .plan ∧ s.pos = .third := by simpa using hrow
    exact memWrite_ne_fault (by simpa using suffix_inside hi hp hpos) hf
  · have hp : s.phase = .slice := by simpa using hrow
    obtain ⟨hk, hw⟩ := slice_inside hi hp
    exact memReadBlock_ne_fault hk hw hf

/-- Settles O55: a fault is one of the operation that is run, which is issued or has arrived. -/
theorem noStepFaults : Obligations.NoStepFaults := by
  intro s x hi h
  obtain ⟨i, s', hf, he⟩ := step_eq_fault.1 h
  obtain ⟨-, ⟨hissued, rfl⟩ | ⟨-, hin, -⟩⟩ := fetch_eq_run hf
  · exact exec_issued_ne_fault hi hissued x he
  · exact exec_incoming_ne_fault hin s' x he

end Sys2Proof.Machine
end

/-! ## Encodings, the pseudo-operations and the padded message (spec/30_encoding.md) -/

section
namespace Sys2Proof.Machine

/-! ### The decoder against the encoder (R74 to R77) -/

theorem wellFormed_data_iff {n : BitVec 64} {p : List Byte} :
    (Instr.data n p).WellFormed ↔ p.length = n.toNat := by
  simp [Instr.WellFormed, Instr.wellFormed]

theorem wellFormed_ldw_iff {t : BitVec 6} : (Instr.ldw t).WellFormed ↔ t.toNat < 16 := by
  simp [Instr.WellFormed, Instr.wellFormed]

theorem wellFormed_sched_iff {t : BitVec 6} : (Instr.sched t).WellFormed ↔ 16 ≤ t.toNat := by
  simp [Instr.WellFormed, Instr.wellFormed]

theorem decode_header_data {n : BitVec 64} {p : List Byte} (h : p.length = n.toNat) (rest : List Byte) :
    decode (headerBytes 0x12 n ++ (p ++ rest)) = .ok (.data n p, rest) := by
  rw [decode_headerBytes _ _ _ (by decide) (by decide)]
  simp [decodeHeader, ← h]

/-- Settles O1: a header is read back with its argument, a format U word with its index. -/
theorem decodeEncodeRoundTrip : Obligations.DecodeEncodeRoundTrip := by
  intro i rest hw
  cases i with
  | start | lenFail | rdFail | lenReq | done | mark | zfill | suffix | slice | synth | ldv | ffwd => rfl
  | len l => exact decode_headerBytes 0x10 l rest (by decide) (by decide)
  | rdReq c => exact decode_header_rdReq c rest
  | error e => exact decode_header_error e rest
  | data n p =>
    rw [encode, List.append_assoc]
    exact decode_header_data (wellFormed_data_iff.1 hw) rest
  | ldw t => exact decode_uop_ldw (wellFormed_ldw_iff.1 hw) rest
  | sched t => exact decode_uop_sched (wellFormed_sched_iff.1 hw) rest
  | round k => exact decode_uop_round k rest

/-- A value that fits a narrower field, there and back. -/
theorem setWidth_setWidth_of_lt {n k : Nat} {x : BitVec n} (h : x.toNat < 2 ^ k) :
    (x.setWidth k).setWidth n = x := by
  apply BitVec.eq_of_toNat_eq
  rw [BitVec.toNat_setWidth, BitVec.toNat_setWidth, Nat.mod_eq_of_lt h, Nat.mod_eq_of_lt x.isLt]

/-- Every field of a format U word is checked, so the word that is decoded is the one that is encoded. -/
theorem decodeUop_encoded {u low : Byte} {i : Instr} :
    decodeUop u low = .ok i → i.WellFormed ∧ encode i = [u, low] := by
  rw [decodeUop]
  by_cases hbits : 64 ≤ low.toNat
  · rw [if_pos hbits]
    rintro ⟨⟩
  rw [if_neg hbits, ← setWidth_setWidth_of_lt (k := 6) (Nat.not_le.1 hbits), uop_index]
  generalize low.setWidth 6 = idx
  refine imp_of_ite_eq_ok (fun hu => imp_of_ite_eq_ok (fun hlow => ?ldw) (by rintro ⟨⟩)) <|
    imp_of_ite_eq_ok (fun hu => imp_of_ite_eq_ok (fun hhigh => ?sched) (by rintro ⟨⟩)) <|
    imp_of_ite_eq_ok (fun hu => ?round) ?fixed
  case fixed =>
    by_cases hidx : idx = 0
    · rw [if_neg (not_not.2 hidx), hidx]
      repeat' refine imp_of_ite_eq_ok (fun hu => ?_) ?_
      all_goals rintro ⟨⟩
      all_goals
        subst u
        exact ⟨rfl, rfl⟩
    · rw [if_pos hidx]
      rintro ⟨⟩
  all_goals
    rintro ⟨⟩
    subst u
  case ldw => exact ⟨wellFormed_ldw_iff.2 hlow, rfl⟩
  case sched => exact ⟨wellFormed_sched_iff.2 hhigh, rfl⟩
  case round => exact ⟨rfl, rfl⟩

/-- A header that is decoded is the one that is encoded, but for an argument that is ignored (R74); the payload
of `DATA` is taken off the bytes behind it. -/
theorem decodeHeader_encoded {c : Byte} {arg : BitVec 64} {bs rest : List Byte} {i : Instr} :
    decodeHeader c arg bs = .ok (i, rest) →
      i.WellFormed ∧ ∃ arg' p, bs = p ++ rest ∧ encode i = headerBytes c arg' ++ p ∧
        (arg' = arg ∨ i = .start ∨ i = .lenFail ∨ i = .rdFail) := by
  rw [decodeHeader]
  refine imp_of_ite_eq_ok (fun hc => ?start) <| imp_of_ite_eq_ok (fun hc => ?len) <|
    imp_of_ite_eq_ok (fun hc => ?lenFail) <| imp_of_ite_eq_ok (fun hc => ?data) <|
    imp_of_ite_eq_ok (fun hc => ?rdFail) <|
    imp_of_ite_eq_ok (fun hc => imp_of_ite_eq_ok (fun harg => ?lenReq) (by rintro ⟨⟩)) <|
    imp_of_ite_eq_ok (fun hc => ?rdReq) <|
    imp_of_ite_eq_ok (fun hc => imp_of_ite_eq_ok (fun harg => ?done) (by rintro ⟨⟩)) <|
    imp_of_ite_eq_ok (fun hc => imp_of_ite_eq_ok (fun harg => ?error) (by rintro ⟨⟩)) (by rintro ⟨⟩)
  case data =>
    by_cases hlen : bs.length < arg.toNat
    · rw [if_pos hlen]
      rintro ⟨⟩
    · rw [if_neg hlen]
      rintro ⟨⟩
      exact ⟨wellFormed_data_iff.2 (List.length_take_of_le (Nat.not_lt.1 hlen)), arg, _,
        (List.take_append_drop _ _).symm, by rw [hc]; rfl, .inl rfl⟩
  all_goals
    rintro ⟨⟩
    subst c
  case start | lenFail | rdFail => exact ⟨rfl, 0, [], rfl, rfl, by simp⟩
  case len | rdReq => exact ⟨rfl, arg, [], rfl, rfl, .inl rfl⟩
  case lenReq | done => exact ⟨rfl, 0, [], rfl, rfl, .inl harg.symm⟩
  case error => exact ⟨rfl, _, [], rfl, rfl, .inl (setWidth_setWidth_of_lt harg)⟩

/-- The bytes of a 64-bit value are no others than the ones it is put together from. -/
theorem be64_injective {a0 a1 a2 a3 a4 a5 a6 a7 b0 b1 b2 b3 b4 b5 b6 b7 : Byte}
    (h : be64 a0 a1 a2 a3 a4 a5 a6 a7 = be64 b0 b1 b2 b3 b4 b5 b6 b7) :
    a0 = b0 ∧ a1 = b1 ∧ a2 = b2 ∧ a3 = b3 ∧ a4 = b4 ∧ a5 = b5 ∧ a6 = b6 ∧ a7 = b7 := by
  have hnum := congrArg BitVec.toNat h
  simp only [be64, toNat_append_byte] at hnum
  simp only [← BitVec.toNat_inj]
  omega

theorem headerBytes_be64 (c b0 b1 b2 b3 b4 b5 b6 b7 : Byte) :
    headerBytes c (be64 b0 b1 b2 b3 b4 b5 b6 b7) = [c, b0, b1, b2, b3, b4, b5, b6, b7] := by
  obtain ⟨h0, h1, h2, h3, h4, h5, h6, h7⟩ := be64_injective (be64_extract (be64 b0 b1 b2 b3 b4 b5 b6 b7))
  rw [← List.append_nil (headerBytes _ _), headerBytes_append, h0, h1, h2, h3, h4, h5, h6, h7]

/-- Bytes that decode are a well-formed operation's encoding, but for an argument that is ignored, and what
follows it. -/
theorem decode_encoded {bs rest : List Byte} {i : Instr} (h : decode bs = .ok (i, rest)) :
    i.WellFormed ∧ ∃ used, bs = used ++ rest ∧ used.length = (encode i).length ∧
      (used = encode i ∨ i = .start ∨ i = .lenFail ∨ i = .rdFail) := by
  cases bs with
  | nil => cases h
  | cons c bs =>
    rcases decode_cons_ok h with
      ⟨-, low, rfl, hd⟩ | ⟨-, b0, b1, b2, b3, b4, b5, b6, b7, bs', rfl, hd⟩
    · obtain ⟨hw, he⟩ := decodeUop_encoded hd
      exact ⟨hw, [c, low], rfl, by rw [he], .inl he.symm⟩
    · obtain ⟨hw, arg, p, rfl, he, harg⟩ := decodeHeader_encoded hd
      refine ⟨hw, [c, b0, b1, b2, b3, b4, b5, b6, b7] ++ p, rfl, ?_, harg.imp_left ?_⟩
      · rw [he, List.length_append, List.length_append, Laws.EncodedWidth.header_length]
        rfl
      · rintro rfl
        rw [he, headerBytes_be64]

/-- Settles O2: what decodes is an encoding, up to an ignored argument of the same length. -/
theorem decodedOperationsAreWellFormed : Obligations.DecodedOperationsAreWellFormed := by
  intro bs rest i h
  obtain ⟨hw, used, hbs, hlen, -⟩ := decode_encoded h
  exact ⟨hw, used, hbs, hlen⟩

/-- Settles O3: only an ignored argument lets two strings of bytes be one operation. -/
theorem encodedWordsHaveOneMeaning : Obligations.EncodedWordsHaveOneMeaning := by
  intro bs rest i h hstart hlenFail hrdFail
  obtain ⟨-, used, rfl, -, rfl | hignored⟩ := decode_encoded h
  · rfl
  · simp [hstart, hlenFail, hrdFail] at hignored

/-- Settles O4: the decoder is evaluated on each word. -/
theorem writtenOutWordsDecode : Obligations.WrittenOutWordsDecode := by
  refine ⟨?_, ?_, ?_, ?_, ?_, ?_, ?_, ?_, ?_, ?_, ?_⟩ <;> decide

/-! ### What the sequencer issues, and what is placed for it (R77, R117) -/

theorem incomingOp_of_issuedOp {s : State} {i : Instr} (h : issuedOp s = some i) :
    incomingOp i = false := by
  have hrow := issuedOp_cases h
  cases i with
  | start | len _ | lenFail | data _ _ | rdFail => simp at hrow
  | _ => rfl

/-- Settles O5: the issued bytes decode, and what decodes is well-formed. -/
theorem issuedWordsAreOperations : Obligations.IssuedWordsAreOperations := by
  intro s hne
  have hd := issue_decodes s
  cases ho : issuedOp s with
  | none => exact absurd (issue_eq_nil_iff.2 ho) hne
  | some i =>
    rw [ho] at hd
    exact ⟨i, hd.2, (decode_encoded hd.2).1, incomingOp_of_issuedOp ho⟩

@[simp] theorem selectOp_resetIn (i : Instr) (bs : List Byte) (s : State) :
    (selectOp i bs s).resetIn = s.resetIn := by
  cases i <;> rfl

/-- The placement puts an operation of the engine's own where the sequencer issues it (log 16). -/
theorem issuedOp_selectOp {i : Instr} (hi : incomingOp i = false) (hw : i.WellFormed)
    (bs : List Byte) (s : State) : issuedOp (selectOp i bs s) = some i := by
  cases i with
  | start | len _ | lenFail | data _ _ | rdFail => cases hi
  | rdReq c => simp [issuedOp, selectOp]
  | ldw t => simp [issuedOp, selectOp, wellFormed_ldw_iff.1 hw]
  | sched t => simp [issuedOp, selectOp, Nat.not_lt.2 (wellFormed_sched_iff.1 hw)]
  | _ => rfl

/-- The placement puts an incoming transaction on the interface of an engine that waits for it (log 16). -/
theorem selectOp_incoming {i : Instr} (hi : incomingOp i = true) (bs : List Byte) (s : State) :
    AtBoundary (selectOp i bs s) ∧ (selectOp i bs s).inbox = bs := by
  rcases incomingOp_cases hi with rfl | ⟨l, rfl⟩ | rfl | ⟨n, p, rfl⟩ | rfl
  case inl =>
    refine ⟨⟨?_, rfl⟩, rfl⟩
    cases hp : s.phase <;> simp [selectOp, acceptsStart, restingPhase, hp]
  all_goals exact ⟨⟨rfl, rfl⟩, rfl⟩

theorem decode_tableBytes {nbits w : Nat} {i : Instr} (h : decodeTableWord nbits w = some i) :
    ∃ rest, decode (tableBytes nbits w) = .ok (i, rest) := by
  unfold decodeTableWord at h
  split at h
  · rename_i j rest hd
    cases h
    exact ⟨rest, hd⟩
  · cases h

/-- Settles O41: what is placed is issued, or waits on the interface. -/
theorem placedWordIsRunNext : Obligations.PlacedWordIsRunNext := by
  intro s nbits w i h
  obtain ⟨rest, hd⟩ := decode_tableBytes h
  have hplaced : s.withFetchWord nbits w =
      selectOp i (tableBytes nbits w) { s with resetIn := false } := by
    simp only [State.withFetchWord, placeWord, h]
  have hr : (s.withFetchWord nbits w).resetIn = false := by simp [hplaced]
  rw [hplaced] at hr ⊢
  cases hi : incomingOp i with
  | true =>
    obtain ⟨hb, hin⟩ := selectOp_incoming hi (tableBytes nbits w) { s with resetIn := false }
    exact ⟨_, by rw [fetch_of_boundary hr hb, fetchIncoming_of_decode (hin ▸ hd) hi]⟩
  | false =>
    exact ⟨_, by rw [fetch_eq _ hr, issuedOp_selectOp hi (decode_encoded hd).1]⟩

/-! ### Refusals (R80) -/

/-- A code that is no incoming transaction's is not taken off the interface (R80 a). -/
theorem fetchIncoming_of_unassigned {s : State} {c : Byte} {bs : List Byte} (hb : s.inbox = c :: bs)
    (hc : incomingCode c = false) : fetchIncoming s = .stop (.unassignedCode c) := by
  simp [fetchIncoming, hb, hc]

theorem incomingCode_eq_false {c : Byte} (h : c ∉ ([0x01, 0x10, 0x11, 0x12, 0x13] : List Byte)) :
    incomingCode c = false := by
  simpa [incomingCode, and_assoc] using h

/-- Settles O6: at a boundary the fetch looks at the interface and stops at the code. -/
theorem unassignedCodesAreRefused : Obligations.UnassignedCodesAreRefused := by
  intro s c rest hb hr hin hc
  rw [step, fetch_of_boundary hr hb, fetchIncoming_of_unassigned hin (incomingCode_eq_false hc)]

/-- Settles O7: the guard of each operation fails. -/
theorem mistimedOperationsAreRefused : Obligations.MistimedOperationsAreRefused := by
  intro s
  refine ⟨fun hidle hdone hfailed => if_neg ?_, fun hp _ => if_neg hp, fun hp => if_neg hp,
    fun hp _ _ hlen => (if_pos hlen).trans (if_neg hp), fun hp => if_neg hp, fun _ _ hlen => if_neg hlen,
    fun _ ht => if_neg (Nat.not_lt.2 ht), fun _ ht => if_neg (Nat.not_le.2 ht)⟩
  simp [acceptsStart, hidle, hdone, hfailed]

/-! ### `pad_zeros` (R79) -/

theorem padZeros_of_le {used : Nat} (h : used % 64 ≤ 56) : padZeros used = 56 - used % 64 := if_pos h

theorem padZeros_of_gt {used : Nat} (h : 56 < used % 64) : padZeros used = 120 - used % 64 :=
  if_neg (Nat.not_le.2 h)

/-- Settles O14, on either side of `used mod 64 = 56`. -/
theorem padZerosReachesTheSuffixSlot : Obligations.PadZerosReachesTheSuffixSlot := by
  intro used
  rcases Nat.lt_or_ge 56 (used % 64) with h | h
  · rw [padZeros_of_gt h]
    omega
  · rw [padZeros_of_le h]
    omega

/-! ### Notifications (R75, R105 to R108) -/

theorem toNat_headerBits (code : Byte) (arg : BitVec 64) :
    (headerBits code arg).toNat = code.toNat * 2 ^ 64 + arg.toNat := by
  rw [headerBits, BitVec.toNat_append, ← Nat.shiftLeft_add_eq_or_of_lt arg.isLt, Nat.shiftLeft_eq]

theorem toNat_errorHeader (e : BitVec 3) : (errorHeader e).toNat = 0x29 * 2 ^ 64 + e.toNat := by
  rw [errorHeader, toNat_headerBits, BitVec.toNat_setWidth_of_le (by decide)]
  rfl

/-- Settles O22: each notification is one `emit`. -/
theorem notificationsOnlyEmit : Obligations.NotificationsOnlyEmit := fun _ =>
  ⟨⟨_, rfl, rfl, rfl, fun _ => rfl⟩,
    fun c => ⟨_, rfl, ⟨rdReqHeader c, rfl, toNat_headerBits 0x21 c⟩, rfl, fun _ => rfl⟩,
    ⟨_, rfl, rfl, rfl, fun _ => rfl⟩,
    fun e => ⟨_, rfl, ⟨errorHeader e, rfl, toNat_errorHeader e⟩, rfl, fun _ => rfl⟩⟩

/-! ### A phase is entered and its header emitted in one step (R33, R75, R77) -/

/-- From `s` to `t` exactly the header that belongs to the phase of `t` is emitted if the phase changes, and
nothing if it does not. -/
def EmitsOnEntry (s t : State) : Prop :=
  t.outbox = s.outbox ++ if t.phase = s.phase then [] else entryHeaders t.phase t

namespace EmitsOnEntry

variable {s t : State}

theorem of_same_phase (hp : t.phase = s.phase) (ho : t.outbox = s.outbox) : EmitsOnEntry s t := by
  simp [EmitsOnEntry, hp, ho]

/-- Entering a phase that has no header emits nothing. -/
theorem of_silent_phase (hp : entryHeaders t.phase t = []) (ho : t.outbox = s.outbox) : EmitsOnEntry s t := by
  simp [EmitsOnEntry, hp, ho]

theorem of_entered (hp : t.phase ≠ s.phase) (ho : t.outbox = s.outbox ++ entryHeaders t.phase t) :
    EmitsOnEntry s t := by
  simp [EmitsOnEntry, hp, ho]

end EmitsOnEntry

theorem enterResting_emitsOnEntry {p : Phase} {s : State} (hp : p ≠ s.phase) :
    EmitsOnEntry s (enterResting p s) :=
  .of_entered hp (congrArg (s.outbox ++ ·) (entryHeaders_congr p rfl rfl))

theorem raiseError_emitsOnEntry {e : ErrorKind} {s : State} (hp : s.phase ≠ .failed) :
    EmitsOnEntry s (raiseError e s) :=
  enterResting_emitsOnEntry (s := { s with err := errorCode e }) hp.symm

theorem planChunk_emitsOnEntry (n : BitVec 64) (s : State) : EmitsOnEntry s (planChunk n s) := by
  by_cases h : n.toNat = s.cfg.capacity
  · rw [planChunk_full h]
    exact .of_silent_phase rfl rfl
  · rw [planChunk_partial h]
    exact .of_silent_phase rfl rfl

/-- An incoming transaction is accepted in another phase than the one it enters. -/
theorem exec_incoming_emitsOnEntry {i : Instr} {s t : State} (hin : incomingOp i = true)
    (h : exec i s = .next t) : EmitsOnEntry s t := by
  rcases incomingOp_cases hin with rfl | ⟨l, rfl⟩ | rfl | ⟨n, p, rfl⟩ | rfl
  · obtain ⟨hp, rfl⟩ := execStart_eq_next.1 h
    refine enterResting_emitsOnEntry (s := { s with err := 0, h := romIV }) fun hprobe => ?_
    have hprobe : s.phase = .probe := hprobe.symm
    simp [acceptsStart, hprobe] at hp
  · obtain ⟨hp, ⟨-, rfl⟩ | ⟨-, rfl⟩⟩ := execLen_eq_next.1 h
    · exact raiseError_emitsOnEntry (by simp [hp])
    · exact enterResting_emitsOnEntry (s := clearMarker { s with
        bytesRemaining := l, lenSuffix := bytesBE64 (8 * l) }) (by simp [hp])
  · obtain ⟨hp, rfl⟩ := execLenFail_eq_next.1 h
    exact raiseError_emitsOnEntry (by simp [hp])
  · obtain ⟨-, hp, ⟨e, -, rfl⟩ | ⟨-, -, rfl⟩ | ⟨-, -, -, rfl⟩⟩ := execData_eq_next.1 h
    · exact raiseError_emitsOnEntry (by simp [hp])
    · exact enterResting_emitsOnEntry (by simp [hp])
    · exact planChunk_emitsOnEntry n { s with cbuf := writeBytes s.cbuf 0 p }
  · obtain ⟨hp, rfl⟩ := execRdFail_eq_next.1 h
    exact raiseError_emitsOnEntry (by simp [hp])

/-- Where no outgoing transaction is placed, the operation that is issued is a micro-operation (R117). -/
theorem issuedOp_not_outgoing {s : State} {i : Instr} (h : issuedOp s = some i)
    (hp : restingPhase s.phase = false) :
    i ≠ .lenReq ∧ (∀ c, i ≠ .rdReq c) ∧ i ≠ .done ∧ ∀ e, i ≠ .error e := by
  have hrow := issuedOp_cases h
  refine ⟨?_, fun c => ?_, ?_, fun e => ?_⟩ <;>
    · rintro rfl
      simp only [reduceCtorEq, false_and, or_false, false_or, true_and] at hrow
      simp [hrow, restingPhase] at hp

/-- A micro-operation changes neither the phase nor the outgoing interface: the sequencer does. -/
theorem exec_issued_silent {i : Instr} {s t : State} (hissued : issuedOp s = some i)
    (hp : restingPhase s.phase = false) (h : exec i s = .next t) :
    t.phase = s.phase ∧ t.outbox = s.outbox := by
  obtain ⟨-, -, -, -, -, -, -, -, -, -, -, -, -, -, -, -, hphase, -, hout⟩ :=
    onlyTheNamedOperationsWrite i s t h
  simpa [incomingOp_of_issuedOp hissued, issuedOp_not_outgoing hissued hp] using And.intro hphase hout

theorem afterBlock_emitsOnEntry {s : State} (hp : s.phase = .compress) : EmitsOnEntry s (afterBlock s) := by
  unfold afterBlock
  split_ifs
  · exact .of_silent_phase rfl rfl
  · exact .of_silent_phase rfl rfl
  · exact enterResting_emitsOnEntry (by simp [hp])

/-- The sequencer emits at the end of a chunk only, where it enters FILL. -/
theorem advance_emitsOnEntry {i : Instr} {s : State} (hp : i = .ffwd → s.phase = .compress) :
    EmitsOnEntry s (advance i s) := by
  cases i with
  | start | len _ | lenFail | data _ _ | rdFail | lenReq | rdReq _ | done | error _ | mark =>
    exact .of_same_phase rfl rfl
  | suffix | slice | synth | ldv => exact .of_silent_phase rfl rfl
  | zfill =>
    simp only [advance, afterZfill]
    split
    · exact .of_silent_phase rfl rfl
    · exact .of_same_phase rfl rfl
  | ldw _ | sched _ | round _ =>
    simp only [advance, afterScheduleWord, afterRound]
    split <;> exact .of_same_phase rfl rfl
  | ffwd => exact afterBlock_emitsOnEntry (hp rfl)

theorem step_emitsOnEntry {s t : State} (hplaced : restingPhase s.phase = true → s.pos = .first)
    (h : step s = .next t) : EmitsOnEntry s t := by
  rcases step_eq_next.1 h with ⟨-, rfl⟩ | ⟨-, rfl⟩ | ⟨i, s', u, hf, he, rfl⟩
  · exact .of_silent_phase rfl rfl
  · exact .of_same_phase rfl rfl
  obtain ⟨-, ⟨hissued, rfl⟩ | ⟨-, hin, rest, -, rfl⟩⟩ := fetch_eq_run hf
  · have hactive : restingPhase s'.phase = false := by
      by_contra hrest
      have hrest : restingPhase s'.phase = true := by simpa using hrest
      simp [issuedOp_of_boundary ⟨hrest, hplaced hrest⟩] at hissued
    obtain ⟨hphase, hout⟩ := exec_issued_silent hissued hactive he
    have hadv : EmitsOnEntry u (advance i u) := by
      refine advance_emitsOnEntry ?_
      rintro rfl
      obtain ⟨hcompress, -⟩ : s'.phase = .compress ∧ s'.pos ≠ .first := by
        simpa using issuedOp_cases hissued
      exact hphase.trans hcompress
    rwa [EmitsOnEntry, hphase, hout] at hadv
  · rw [advance_of_incoming hin]
    exact exec_incoming_emitsOnEntry (s := { s with inbox := rest }) hin he

/-- Settles O23: the phase after the step says which header has been emitted. -/
theorem enteringAPhaseEmits : Obligations.EnteringAPhaseEmits := by
  intro s t hplaced h
  have he := step_emitsOnEntry hplaced h
  unfold EmitsOnEntry at he
  refine ⟨fun hp => by simpa [hp] using he, fun hp => ?_⟩
  rw [if_neg hp] at he
  refine ⟨fun hq => ?_, fun hq => ?_, fun hq => ?_, fun hq => ?_, fun hq => ?_⟩
  · have hq : t.phase = .probe := by simpa [lenReqOut] using hq
    rw [he, hq, entryHeaders_probe]
  · have hq : t.phase = .fill := by simpa [rdReqOut] using hq
    rw [he, hq, entryHeaders_fill]
  · have hq : t.phase = .done := by simpa [digestValid] using hq
    rw [he, hq, entryHeaders_done]
  · have hq : t.phase = .failed := by simpa [errorOut] using hq
    rw [he, hq, entryHeaders_failed]
  · rcases hq with hq | hq
    · rw [he, hq, entryHeaders_idle, List.append_nil]
    · rw [he, entryHeaders_transient hq, List.append_nil]

/-! ### Operations one after another (R83) -/

theorem runOps_append (xs ys : List Instr) (s : State) :
    runOps (xs ++ ys) s = andThen (runOps xs s) (runOps ys) := by
  induction xs generalizing s with
  | nil => rfl
  | cons i xs ih =>
    simp only [List.cons_append, runOps]
    cases exec i s with
    | next t => exact ih t
    | fault x => rfl
    | refused r => rfl

theorem runOps_singleton (i : Instr) (s : State) : runOps [i] s = exec i s := by
  simp only [runOps]
  cases exec i s <;> rfl

/-- One more operation behind a run that goes on. -/
theorem runOps_snoc {xs : List Instr} {i : Instr} {s t : State} (h : runOps xs s = .next t) :
    runOps (xs ++ [i]) s = exec i t := by
  rw [runOps_append, h, andThen_next, runOps_singleton]

theorem toNat_ofNat_index {n : Nat} (h : n < 64) : (BitVec.ofNat 6 n).toNat = n :=
  Nat.mod_eq_of_lt h

/-! ### COMPRESS (R167) -/

theorem runOps_rounds (s : State) {n : Nat} (hn : n ≤ 64) :
    runOps ((List.range n).map fun i => .round (BitVec.ofNat 6 i)) s =
      .next { s with v := roundsOf s.w s.v n } := by
  induction n with
  | zero => rfl
  | succ n ih =>
    rw [List.range_succ, List.map_append, List.map_singleton, runOps_snoc (ih (by omega))]
    simp only [exec, execRound, roundsOf, toNat_ofNat_index (show n < 64 by omega)]

/-- Settles O36: `LDV`, then the rounds by induction, then `FFWD`. -/
theorem compressSequenceUpdatesTheHash : Obligations.CompressSequenceUpdatesTheHash := by
  intro s
  have hrounds := runOps_rounds { s with v := s.h } (le_refl 64)
  have hldv : exec .ldv s = .next { s with v := s.h } := rfl
  rw [compressOps, List.append_assoc, runOps_append, runOps_singleton, hldv, andThen_next,
    runOps_snoc hrounds]
  simp only [exec, execFfwd, compressHash]

/-! ### EXPAND (R144, R145) -/

@[simp] theorem length_scheduleList (blk : Vector Byte 64) (n : Nat) :
    (scheduleList blk n).length = n := by
  induction n with
  | zero => rfl
  | succ n ih => simp [scheduleList, ih]

/-- Later words do not change a word of the schedule. -/
theorem scheduleList_getD (blk : Vector Byte 64) {t n : Nat} (h : t < n) :
    (scheduleList blk n).getD t 0 = nextScheduleWord blk (scheduleList blk t) := by
  induction n with
  | zero => omega
  | succ n ih =>
    rcases Nat.lt_succ_iff_lt_or_eq.1 h with hlt | rfl
    · rw [scheduleList, List.getD_append _ _ _ _ (by simpa using hlt), ih hlt]
    · simp [scheduleList, List.getD_eq_getElem?_getD]

theorem expandBlock_getElem (blk : Vector Byte 64) {t : Nat} (h : t < 64) :
    (expandBlock blk)[t] = nextScheduleWord blk (scheduleList blk t) := by
  simp only [expandBlock, Vector.getElem_ofFn, scheduleList_getD blk h]

/-- An earlier word, as the recurrence reads it. -/
theorem scheduleList_getD_eq_expandBlock (blk : Vector Byte 64) {k t : Nat} (hk : k < t) (ht : t ≤ 64) :
    (scheduleList blk t).getD k 0 = (expandBlock blk)[k] := by
  rw [scheduleList_getD blk hk, expandBlock_getElem]

theorem expandBlock_loaded (blk : Vector Byte 64) {t : Nat} (h : t < 16) :
    (expandBlock blk)[t] = loadedWord blk t := by
  simp [expandBlock_getElem, nextScheduleWord, h]

theorem expandBlock_recurrence (blk : Vector Byte 64) {t : Nat} (ht : t < 64) (h : 16 ≤ t) :
    (expandBlock blk)[t] =
      (expandBlock blk)[t - 16] + sigma0 (expandBlock blk)[t - 15] + (expandBlock blk)[t - 7] +
        sigma1 (expandBlock blk)[t - 2] := by
  rw [expandBlock_getElem, nextScheduleWord, length_scheduleList, if_neg (Nat.not_lt.2 h),
    scheduleList_getD_eq_expandBlock _ (by omega) ht.le, scheduleList_getD_eq_expandBlock _ (by omega) ht.le,
    scheduleList_getD_eq_expandBlock _ (by omega) ht.le, scheduleList_getD_eq_expandBlock _ (by omega) ht.le]

theorem loadedWord_eq_be32 (blk : Vector Byte 64) {t : Nat} (h : t < 16) : loadedWord blk t =
    be32 blk[4 * t] blk[4 * t + 1] blk[4 * t + 2] blk[4 * t + 3] := by
  have hbyte (k : Nat) (hk : k < 4) : blockByte blk t k = blk[4 * t + k] := by
    rw [blockByte, Vector.getElem?_eq_getElem (by omega), Option.getD_some]
  rw [loadedWord, hbyte 0, hbyte 1, hbyte 2, hbyte 3]
  · rfl
  all_goals omega

theorem scheduleWord_eq_getElem (w : Vector Word 64) {i : Nat} (h : i < 64) : scheduleWord w i = w[i] := by
  rw [scheduleWord, Vector.getElem?_eq_getElem h, Option.getD_some]

/-- The operation of EXPAND that writes word `t`. -/
def expandOp (t : Nat) : Instr :=
  if t < 16 then .ldw (BitVec.ofNat 6 t) else .sched (BitVec.ofNat 6 t)

theorem expandOps_eq : expandOps = (List.range 64).map expandOp := rfl

/-- `w` holds the first `n` words of the schedule of a block. -/
def HoldsSchedule (blk : Vector Byte 64) (n : Nat) (w : Vector Word 64) : Prop :=
  ∀ (t : Nat) (ht : t < 64), t < n → w[t] = (expandBlock blk)[t]

/-- The recurrence reads only words that `w` holds already. -/
theorem recurrenceWord_of_holdsSchedule {blk : Vector Byte 64} {w : Vector Word 64} {n : Nat}
    (hn : n < 64) (h : 16 ≤ n) (hw : HoldsSchedule blk n w) : recurrenceWord w n = (expandBlock blk)[n] := by
  have hword (k : Nat) (hk : k < n) : scheduleWord w k = (expandBlock blk)[k] := by
    rw [scheduleWord_eq_getElem w (by omega), hw k (by omega) hk]
  rw [expandBlock_recurrence blk hn h, recurrenceWord, hword (n - 16), hword (n - 15), hword (n - 7),
    hword (n - 2)]
  · rfl
  all_goals omega

theorem HoldsSchedule.set {blk : Vector Byte 64} {w : Vector Word 64} {n : Nat} (hn : n < 64)
    (hw : HoldsSchedule blk n w) : HoldsSchedule blk (n + 1) (w.set n (expandBlock blk)[n]) := by
  intro t ht hlt
  rcases Nat.lt_succ_iff_lt_or_eq.1 hlt with h | rfl
  · rw [Vector.getElem_set_ne _ _ h.ne', hw t ht h]
  · rw [Vector.getElem_set_self]

/-- Given the words before it, the operation writes word `n` of the schedule. -/
theorem exec_expandOp {s : State} {n : Nat} (hn : n < 64) (hw : HoldsSchedule s.blk n s.w) :
    exec (expandOp n) s = .next { s with w := s.w.set n (expandBlock s.blk)[n] } := by
  have hidx := toNat_ofNat_index hn
  unfold expandOp
  split
  case isTrue h =>
    refine execLdw_eq_next.2 ⟨by omega, ?_⟩
    simp only [hidx, expandBlock_loaded s.blk h]
  case isFalse h =>
    refine execSched_eq_next.2 ⟨by omega, ?_⟩
    simp only [hidx, recurrenceWord_of_holdsSchedule hn (Nat.not_lt.1 h) hw]

theorem runOps_expand (s : State) {n : Nat} (hn : n ≤ 64) :
    ∃ w, runOps ((List.range n).map expandOp) s = .next { s with w := w } ∧ HoldsSchedule s.blk n w := by
  induction n with
  | zero => exact ⟨s.w, rfl, fun t _ ht => absurd ht (Nat.not_lt_zero t)⟩
  | succ n ih =>
    obtain ⟨w, hrun, hw⟩ := ih (by omega)
    refine ⟨w.set n (expandBlock s.blk)[n], ?_, hw.set hn⟩
    rw [List.range_succ, List.map_append, List.map_singleton, runOps_snoc hrun]
    exact exec_expandOp (s := { s with w := w }) hn hw

/-- Settles O35: after 64 operations nothing of the old `W` is left. -/
theorem expandSequenceComputesTheSchedule : Obligations.ExpandSequenceComputesTheSchedule := by
  refine ⟨fun s => ?_, fun blk => ⟨fun t ht => ?_, fun t ht h => expandBlock_recurrence blk ht h⟩⟩
  · obtain ⟨w, hrun, hw⟩ := runOps_expand s (le_refl 64)
    obtain rfl : w = expandBlock s.blk := Vector.ext fun t ht => hw t ht ht
    rw [expandOps_eq, hrun]
  · rw [expandBlock_loaded blk ht, loadedWord_eq_be32 blk ht]

/-! ### The padded message (R71) -/

theorem length_padMessage (m : List Byte) :
    (padMessage m).length = m.length + 1 + paddingZeros m.length + 8 := by
  rw [padMessage, List.length_append, List.length_append, List.length_append, List.length_singleton,
    List.length_replicate, Vector.length_toList]

/-- `z = (55 - L) mod 64`, without a subtraction below zero. -/
theorem paddingZeros_eq (l : Nat) : (paddingZeros l : Int) = (55 - (l : Int)) % 64 := by
  unfold paddingZeros
  omega

theorem length_padMessage_mod (m : List Byte) : (padMessage m).length % 64 = 0 := by
  rw [length_padMessage, paddingZeros]
  omega

theorem length_blocksOf_padMessage (m : List Byte) :
    (blocksOf (padMessage m)).length = (m.length + 8) / 64 + 1 := by
  rw [blocksOf, List.length_map, List.length_range, length_padMessage, paddingZeros]
  omega

/-- Block `i` of a string of bytes. -/
def blockOf (bs : List Byte) (i : Nat) : Vector Byte 64 :=
  Vector.ofFn fun k => bs.getD (64 * i + k.val) 0

theorem blocksOf_eq (bs : List Byte) :
    blocksOf bs = (List.range (bs.length / 64)).map (blockOf bs) := rfl

theorem blockOf_toList {bs : List Byte} {i : Nat} (h : 64 * i + 64 ≤ bs.length) :
    (blockOf bs i).toList = (bs.drop (64 * i)).take 64 := by
  have hlen : ((bs.drop (64 * i)).take 64).length = 64 :=
    List.length_take_of_le (by rw [List.length_drop]; omega)
  refine List.ext_getElem (by rw [Vector.length_toList, hlen]) fun k hk _ => ?_
  have hk : k < 64 := by simpa using hk
  simp [blockOf, List.getElem?_eq_getElem (show 64 * i + k < bs.length by omega)]

theorem flatMap_blockOf {bs : List Byte} {n : Nat} (h : 64 * n ≤ bs.length) :
    ((List.range n).map (blockOf bs)).flatMap (·.toList) = bs.take (64 * n) := by
  induction n with
  | zero => simp
  | succ n ih =>
    rw [List.range_succ, List.map_append, List.flatMap_append, ih (by omega), List.map_singleton,
      List.flatMap_singleton, blockOf_toList (by omega), Nat.mul_succ, List.take_add]

theorem flatMap_blocksOf {bs : List Byte} (h : bs.length % 64 = 0) :
    (blocksOf bs).flatMap (·.toList) = bs := by
  have hlen : 64 * (bs.length / 64) = bs.length := Nat.mul_div_cancel' (Nat.dvd_of_mod_eq_zero h)
  rw [blocksOf_eq, flatMap_blockOf hlen.le, hlen, List.take_length]

/-- The value of the length field wraps at 64 bits, which its eight bytes do not show. -/
theorem toNat_lengthByte (l k : Nat) (hk : k < 8) :
    ((bytesBE64 (8 * BitVec.ofNat 64 l))[k]).toNat = 8 * l / 2 ^ (8 * (7 - k)) % 256 := by
  have hbits : (8 * BitVec.ofNat 64 l).toNat = 8 * l % 2 ^ 64 := by simp [BitVec.toNat_mul]
  rw [toNat_bytesBE64_getElem, hbits]
  interval_cases k <;> omega

theorem padMessage_getElem?_message {m : List Byte} {i : Nat} (h : i < m.length) :
    (padMessage m)[i]? = m[i]? := by
  rw [padMessage, List.append_assoc, List.append_assoc, List.getElem?_append_left h]

theorem padMessage_getElem?_marker (m : List Byte) : (padMessage m)[m.length]? = some 0x80 := by
  rw [padMessage, List.append_assoc, List.append_assoc, List.getElem?_append_right le_rfl, Nat.sub_self]
  rfl

theorem padMessage_getElem?_zeros {m : List Byte} {i : Nat} (h : i < paddingZeros m.length) :
    (padMessage m)[m.length + 1 + i]? = some 0 := by
  have hlen : (m ++ [(0x80 : Byte)]).length = m.length + 1 := by simp
  rw [padMessage, List.append_assoc _ (List.replicate _ _), ← hlen,
    List.getElem?_append_right (Nat.le_add_right _ _), Nat.add_sub_cancel_left,
    List.getElem?_append_left (by simpa using h), List.getElem?_replicate_of_lt h]

theorem padMessage_getElem?_length (m : List Byte) (k : Nat) :
    (padMessage m)[m.length + 1 + paddingZeros m.length + k]? =
      (bytesBE64 (8 * BitVec.ofNat 64 m.length)).toList[k]? := by
  have hlen : (m ++ [(0x80 : Byte)] ++ List.replicate (paddingZeros m.length) 0).length =
      m.length + 1 + paddingZeros m.length := by
    rw [List.length_append, List.length_append, List.length_replicate, List.length_singleton]
  rw [padMessage, ← hlen, List.getElem?_append_right (Nat.le_add_right _ _), Nat.add_sub_cancel_left]

/-- Settles O58, part by part of the padded message. -/
theorem paddedMessageFormat : Obligations.PaddedMessageFormat := by
  intro m
  refine ⟨paddingZeros_eq m.length, length_padMessage m, fun _ => padMessage_getElem?_message,
    padMessage_getElem?_marker m, fun _ => padMessage_getElem?_zeros, fun k hk => ?_,
    length_padMessage_mod m, length_blocksOf_padMessage m, flatMap_blocksOf (length_padMessage_mod m)⟩
  rw [padMessage_getElem?_length, Vector.getElem?_toList, Vector.getElem?_eq_getElem hk, Option.map_some,
    toNat_lengthByte m.length k hk]

end Sys2Proof.Machine
end

/-! ## Incoming transactions (spec/40_buffer_manager.md R100 to R104, R109; spec/60_exceptions.md) -/

section
namespace Sys2Proof.Machine

/-! ### `START`, `LEN` and the errors -/

/-- Settles O16: the one update of `START`. -/
theorem startBeginsARun : Obligations.StartBeginsARun := by
  intro s hp
  have haccepts : acceptsStart s.phase = true := by rcases hp with hp | hp | hp <;> rw [hp] <;> rfl
  exact ⟨_, execStart_eq_next.2 ⟨haccepts, rfl⟩, rfl, fun _ _ => rfl, rfl, ⟨rfl, rfl⟩, rfl, rfl,
    fun _ => rfl⟩

/-- Everything that R211 says of an error, once for all seven kinds. -/
theorem raised_raiseError (e : ErrorKind) (s : State) : Raised (errorCode e) s (raiseError e s) :=
  ⟨rfl, rfl, ⟨rfl, rfl⟩, rfl, rfl, fun _ => rfl⟩

/-- The length in bits modulo 2^64, as a number. -/
theorem toNat_eight_mul (l : BitVec 64) : (8 * l).toNat = 8 * l.toNat % 2 ^ 64 := by
  rw [BitVec.toNat_mul]
  rfl

/-- Settles O17: the two branches of `LEN`. -/
theorem lengthIsRecordedOrRejected : Obligations.LengthIsRecordedOrRejected := by
  intro s l hp
  refine ⟨fun hl => ?recorded, fun hl => ?rejected⟩
  case recorded =>
    refine ⟨_, execLen_eq_next.2 ⟨hp, .inr ⟨hl, rfl⟩⟩, rfl, fun k hk => ?_, rfl, rfl, ⟨rfl, rfl⟩, rfl, rfl,
      fun _ => rfl⟩
    rw [enterResting_lenSuffix, clearMarker_lenSuffix, toNat_bytesBE64_getElem, toNat_eight_mul]
  case rejected => exact ⟨_, execLen_eq_next.2 ⟨hp, .inl ⟨hl, rfl⟩⟩, raised_raiseError .oversize s⟩

/-- Settles O18: each is one error. -/
theorem sourceFailuresRaise : Obligations.SourceFailuresRaise := fun s =>
  ⟨fun hp => ⟨_, execLenFail_eq_next.2 ⟨hp, rfl⟩, raised_raiseError .sizeProbeFail s⟩,
    fun hp => ⟨_, execRdFail_eq_next.2 ⟨hp, rfl⟩, raised_raiseError .readFail s⟩⟩

/-! ### The checks of `DATA` (R103 lines 1 to 5), in their order -/

section Checks

variable {n : BitVec 64} {s : State}

theorem dataError_countRange (hc : s.cfg.capacity < n.toNat) : dataError n s = some .countRange :=
  if_pos hc

theorem dataError_overrun (hc : n.toNat ≤ s.cfg.capacity) (ho : s.bytesRemaining.toNat < n.toNat) :
    dataError n s = some .overrun := by
  rw [dataError, if_neg (Nat.not_lt.2 hc), if_pos ho]

/-- The check of line 3 comes first, so only before the marker is a zero-byte read an underrun. -/
theorem dataError_underrun (hm : s.markerEmitted = false) (hr : s.bytesRemaining ≠ 0) :
    dataError 0 s = some .underrun := by
  simpa [dataError, hm] using hr

theorem dataError_shortRead (hn : n ≠ 0) (hc : n.toNat < s.cfg.capacity)
    (hr : n.toNat < s.bytesRemaining.toNat) : dataError n s = some .shortRead := by
  have hleft : s.bytesRemaining - n ≠ 0 := sub_ne_zero.2 fun h => (h ▸ hr).false
  rw [dataError, if_neg (by omega), if_neg (by omega), if_neg (by simpa using fun h => absurd h hn),
    if_neg (by simpa using fun h => absurd h hn), if_pos (by simpa [hc] using hleft)]

/-- The converse of `dataError_eq_none`, where the chunk is taken. -/
theorem dataError_none_of_chunk (hc : n.toNat ≤ s.cfg.capacity)
    (hr : n.toNat ≤ s.bytesRemaining.toNat) (hm : n = 0 → s.markerEmitted = false)
    (hchunk : n.toNat = s.cfg.capacity ∧ n ≠ 0 ∨ n = s.bytesRemaining) : dataError n s = none := by
  rw [dataError, if_neg (by omega), if_neg (by omega), if_neg (by simpa using hm)]
  rcases hchunk with ⟨hfull, hn⟩ | rfl
  · rw [if_neg (by simpa using fun h => absurd h hn), if_neg (by simp [hfull])]
  · rw [if_neg (by simp), if_neg (by simp)]

theorem dataError_none_of_stop (hm : s.markerEmitted = true) : dataError 0 s = none := by
  simp [dataError, hm]

theorem execData_raises {p : List Byte} (hd : DataAccepted n p s) {e : ErrorKind}
    (he : dataError n s = some e) :
    ∃ t, exec (.data n p) s = .next t ∧ Raised (errorCode e) s t :=
  ⟨_, execData_eq_next.2 ⟨hd.2, hd.1, .inl ⟨e, he, rfl⟩⟩, raised_raiseError e s⟩

end Checks

/-- Settles O19: each check, where the ones before it do not apply. -/
theorem dataErrorsInOrder : Obligations.DataErrorsInOrder := by
  intro s n p hd
  refine ⟨fun hc => execData_raises hd (dataError_countRange hc),
    fun hc ho => execData_raises hd (dataError_overrun hc ho), ?_,
    fun hn hc hr => execData_raises hd (dataError_shortRead hn hc hr)⟩
  rintro rfl hm hr
  exact execData_raises hd (dataError_underrun hm hr)

/-- Settles O20: no check applies, and line 3 ends the run. -/
theorem zeroReadAfterPaddingStops : Obligations.ZeroReadAfterPaddingStops := fun _ hp hm =>
  ⟨_, execData_eq_next.2 ⟨rfl, hp, .inr (.inl ⟨dataError_none_of_stop hm, ⟨rfl, hm⟩, rfl⟩)⟩, rfl,
    ⟨rfl, rfl⟩, rfl, rfl, fun _ => rfl⟩

/-! ### The chunk that `DATA` takes (R103 lines 6 to 9, R109) -/

/-- A read inside a string stored from offset 0. -/
theorem readByte_writeBytes_zero {m : Memory} {p : List Byte} {a : Nat} (h : a < p.length) :
    readByte (writeBytes m 0 p) a = p[a]? := by
  rw [readByte_writeBytes, if_pos (by omega), Nat.sub_zero]

/-- `DATA` that raises no error and does not end the run stores its payload and plans the chunk. -/
theorem execData_chunk {n : BitVec 64} {p : List Byte} {s : State} (hd : DataAccepted n p s)
    (hc : n.toNat ≤ s.cfg.capacity) (hr : n.toNat ≤ s.bytesRemaining.toNat)
    (hm : n = 0 → s.markerEmitted = false)
    (hchunk : n.toNat = s.cfg.capacity ∧ n ≠ 0 ∨ n = s.bytesRemaining) :
    exec (.data n p) s = .next (planChunk n { s with cbuf := writeBytes s.cbuf 0 p }) := by
  obtain ⟨hp, hlen⟩ := hd
  refine execData_eq_next.2
    ⟨hlen, hp, .inr (.inr ⟨dataError_none_of_chunk hc hr hm hchunk, ?_, by omega, rfl⟩)⟩
  rintro ⟨h0, hmarked⟩
  simp [hm h0] at hmarked

/-- Nothing remains exactly if the count is what remained. -/
theorem sub_beq_zero (x n : BitVec 64) : (x - n == 0) = decide (n = x) := by
  rw [beq_eq_decide, decide_eq_decide, sub_eq_zero, eq_comm]

/-- Settles O21 for a full chunk and for a partial one. -/
theorem dataTakesTheChunk : Obligations.DataTakesTheChunk := by
  intro s n p hd hc hr hm hchunk
  have hleft : (s.bytesRemaining - n).toNat = s.bytesRemaining.toNat - n.toNat :=
    BitVec.toNat_sub_of_le (BitVec.le_def.2 hr)
  have hstored : ∀ i < n.toNat, readByte (writeBytes s.cbuf 0 p) i = p[i]? :=
    fun i hi => readByte_writeBytes_zero (by omega)
  have houtside : ∀ a, a < 0 ∨ 0 + n.toNat ≤ a → readByte (writeBytes s.cbuf 0 p) a = readByte s.cbuf a :=
    fun a ha => readByte_writeBytes_outside _ _ _ _ (by omega)
  refine ⟨_, execData_chunk hd hc hr hm hchunk, ?_⟩
  by_cases hfull : n.toNat = s.cfg.capacity
  · rw [planChunk_full (s := { s with cbuf := writeBytes s.cbuf 0 p }) hfull]
    exact ⟨hstored, houtside, rfl, hleft, fun _ => ⟨rfl, rfl, rfl, sub_beq_zero _ _⟩,
      fun hlt => absurd hfull hlt.ne, rfl, rfl⟩
  · rw [planChunk_partial (s := { s with cbuf := writeBytes s.cbuf 0 p }) hfull]
    exact ⟨hstored, houtside, rfl, hleft, fun h => absurd h hfull, fun _ => ⟨rfl, rfl, rfl, rfl⟩, rfl, rfl⟩

end Sys2Proof.Machine
end

/-! ## Padding and slicing (spec/40_buffer_manager.md R110 to R115) -/

section
namespace Sys2Proof.Machine

/-! ### Stores, read back -/

theorem readByte_writeBytes_inside (m : Memory) (k : Nat) {bs : List Byte} {i : Nat} (h : i < bs.length) :
    readByte (writeBytes m k bs) (k + i) = bs[i]? := by
  rw [readByte_writeBytes, if_pos (by omega), Nat.add_sub_cancel_left]

/-- A store right behind another reads like one store of both strings. -/
theorem readByte_writeBytes_append (m : Memory) (k : Nat) (xs ys : List Byte) (a : Nat) :
    readByte (writeBytes (writeBytes m k xs) (k + xs.length) ys) a =
      readByte (writeBytes m k (xs ++ ys)) a := by
  simp only [readByte_writeBytes, List.length_append]
  by_cases hys : k + xs.length ≤ a ∧ a < k + xs.length + ys.length
  · rw [if_pos hys, if_pos (by omega), List.getElem?_append_right (by omega), Nat.sub_sub]
  rw [if_neg hys]
  by_cases hxs : k ≤ a ∧ a < k + xs.length
  · rw [if_pos hxs, if_pos (by omega), List.getElem?_append_left (by omega)]
  · rw [if_neg hxs, if_neg (by omega)]

/-- What is read depends on what is read in the memory that is written to. -/
theorem readByte_writeBytes_congr {m m' : Memory} (h : ∀ a, readByte m a = readByte m' a) (k : Nat)
    (bs : List Byte) (a : Nat) : readByte (writeBytes m k bs) a = readByte (writeBytes m' k bs) a := by
  simp only [readByte_writeBytes, h]

/-! ### The five operations -/

/-- Settles O24: one store of one byte. -/
theorem markWritesTheMarker : Obligations.MarkWritesTheMarker := fun s hc =>
  ⟨_, execMark_eq_next.2 ⟨hc, rfl⟩, rfl, readByte_writeBytes_inside s.cbuf s.bytesRead (i := 0) Nat.one_pos,
    fun a ha => readByte_writeBytes_outside s.cbuf s.bytesRead [0x80] a ha, rfl, rfl, rfl⟩

theorem suffixOverflows_iff {s : State} : suffixOverflows s = true ↔ s.cfg.capacity - s.used < 8 := by
  simp [suffixOverflows]

theorem zfillCount_of_overflow {s : State} (h : s.cfg.capacity - s.used < 8) :
    zfillCount s = s.cfg.capacity - s.used := if_pos (suffixOverflows_iff.2 h)

theorem zfillCount_of_fits {s : State} (h : 8 ≤ s.cfg.capacity - s.used) :
    zfillCount s = padZeros s.used := if_neg fun ho => by have := suffixOverflows_iff.1 ho; omega

/-- The zeros of the plan end inside the chunk, for every count the register may hold (R110). -/
theorem zfill_fits {s : State} (hv : s.cfg.Valid) (hu : s.used ≤ s.cfg.capacity) :
    s.used + zfillCount s ≤ s.cfg.capacity := by
  obtain ⟨hmod, -⟩ := hv
  rcases Nat.lt_or_ge (s.cfg.capacity - s.used) 8 with h | h
  · rw [zfillCount_of_overflow h]
    omega
  · rw [zfillCount_of_fits h]
    have := padding_fits hmod (show s.used + 8 ≤ s.cfg.capacity by omega)
    omega

/-- Settles O25: one store of zeros, which ends inside the chunk. -/
theorem zeroFillWritesThePlannedZeros : Obligations.ZeroFillWritesThePlannedZeros := by
  intro s hv hu
  have hlen : (List.replicate (zfillCount s) (0 : Byte)).length = zfillCount s := List.length_replicate
  refine ⟨_, memWrite_eq_next.2 ⟨?_, rfl⟩, rfl, ?_, fun i hi => ?_, fun a ha => ?_, rfl⟩
  · rw [hlen]
    exact zfill_fits hv hu
  · rcases Nat.lt_or_ge (s.cfg.capacity - s.used) 8 with h | h
    · rw [zfillCount_of_overflow h, if_pos h]
    · rw [zfillCount_of_fits h, if_neg (Nat.not_lt.2 h)]
  · rw [readByte_writeBytes_inside _ _ (by omega), List.getElem?_replicate_of_lt hi]
  · exact readByte_writeBytes_outside _ _ _ _ (by rwa [hlen])

theorem suffixOffset_mod (s : State) : suffixOffset s % 64 = 56 :=
  (padZerosReachesTheSuffixSlot s.used).2.2.2

/-- Settles O26: one store of eight bytes, at the offset of R79. -/
theorem suffixEndsABlock : Obligations.SuffixEndsABlock := by
  intro s hv hu
  have hlen : s.lenSuffix.toList.length = 8 := Vector.length_toList
  refine ⟨_, memWrite_eq_next.2 ⟨?_, rfl⟩, rfl, suffixOffset_mod s, fun k hk => ?_, fun a ha => ?_, rfl⟩
  · rw [hlen]
    exact padding_fits hv.1 hu
  · rw [readByte_writeBytes_inside _ _ (by omega), Vector.getElem?_toList, Vector.getElem?_eq_getElem hk]
  · exact readByte_writeBytes_outside _ _ _ _ (by rwa [hlen])

/-- Settles O27: one block read. -/
theorem sliceCopiesTheBlock : Obligations.SliceCopiesTheBlock := by
  intro s hc hw
  refine ⟨_, memReadBlock_eq_next.2 ⟨hc, hw, rfl⟩, fun k hk => ?_, rfl, fun _ => rfl⟩
  obtain ⟨b, hb⟩ := Option.isSome_iff_exists.1 (hw k hk)
  simp only [blockAt_getElem, sliceOffset, hb, Option.getD_some]

theorem syntheticBlock_first (marked : Bool) (suffix : Vector Byte 8) :
    (syntheticBlock marked suffix)[0] = if marked = false then 0x80 else 0x00 := by
  cases marked <;> simp [syntheticBlock]

theorem syntheticBlock_zeros (marked : Bool) (suffix : Vector Byte 8) {k : Nat} (hk : k < 64) (h1 : 1 ≤ k)
    (h55 : k ≤ 55) : (syntheticBlock marked suffix)[k] = 0 := by
  rw [syntheticBlock, Vector.getElem_ofFn, if_neg (show ¬k = 0 by omega), if_pos (show k < 56 by omega)]

theorem syntheticBlock_suffix (marked : Bool) (suffix : Vector Byte 8) {k : Nat} (hk : k < 8) :
    (syntheticBlock marked suffix)[56 + k] = suffix[k] := by
  rw [syntheticBlock, Vector.getElem_ofFn, if_neg (show ¬56 + k = 0 by omega),
    if_neg (show ¬56 + k < 56 by omega)]
  simp [hk]

/-- `SYNTH` with all that it writes. -/
theorem exec_synth (s : State) : exec .synth s = .next { s with
    blk := syntheticBlock s.markerEmitted s.lenSuffix
    markerEmitted := true
    synthPending := false } := rfl

/-- Settles O28: the synthetic block part by part. -/
theorem synthBuildsAPaddingBlock : Obligations.SynthBuildsAPaddingBlock := fun s =>
  ⟨_, exec_synth s, syntheticBlock_first s.markerEmitted s.lenSuffix,
    fun _ hk h1 h55 => syntheticBlock_zeros s.markerEmitted s.lenSuffix hk h1 h55,
    fun _ hk => syntheticBlock_suffix s.markerEmitted s.lenSuffix hk, rfl, rfl, rfl, fun _ => rfl⟩

end Sys2Proof.Machine
end

/-! ## The sequencer, row by row, and a block (spec/40_buffer_manager.md R116, R117) -/

section
namespace Sys2Proof.Machine

/-! ### Steps one after another -/

theorem runSteps_one (s : State) : runSteps 1 s = step s := by
  simp only [runSteps]
  cases step s <;> rfl

theorem runSteps_add {m n : Nat} {s t u : State} (h : runSteps m s = .next t)
    (h' : runSteps n t = .next u) : runSteps (m + n) s = .next u := by
  induction m generalizing s with
  | zero =>
    cases h
    rwa [Nat.zero_add]
  | succ m ih =>
    obtain ⟨s', hs, hm⟩ := andThen_eq_next.1 h
    rw [Nat.succ_add, runSteps, hs, andThen_next]
    exact ih hm

/-- One more step behind a run that goes on. -/
theorem runSteps_snoc {n : Nat} {s t : State} (h : runSteps n s = .next t) {u : State}
    (h' : step t = .next u) : runSteps (n + 1) s = .next u :=
  runSteps_add h ((runSteps_one t).trans h')

/-- Finitely many steps lead from `s` to `t`. -/
def LeadsTo (s t : State) : Prop := ∃ k, runSteps k s = .next t

namespace LeadsTo

variable {s t u : State}

theorem of_step (h : step s = .next t) : LeadsTo s t := ⟨1, (runSteps_one s).trans h⟩

theorem trans : LeadsTo s t → LeadsTo t u → LeadsTo s u
  | ⟨_, h⟩, ⟨_, h'⟩ => ⟨_, runSteps_add h h'⟩

end LeadsTo

/-! ### A step that runs an issued operation -/

theorem step_of_issuedOp {s : State} {i : Instr} (hr : s.resetIn = false) (h : issuedOp s = some i) :
    step s = sequenced i (exec i s) := by
  rw [step, fetch_eq s hr, h]

theorem step_of_exec_issuedOp {s t : State} {i : Instr} (hr : s.resetIn = false)
    (h : issuedOp s = some i) (he : exec i s = .next t) : step s = .next (advance i t) := by
  rw [step_of_issuedOp hr h, he, sequenced_next]

/-- Settles O40: the issued bytes decode to one operation, and `sequenced` moves on where it goes on. -/
theorem stepRunsTheIssuedOperation : Obligations.StepRunsTheIssuedOperation := by
  intro s i rest hr hne hd
  have hissued := issue_decodes s
  cases ho : issuedOp s with
  | none => exact absurd (issue_eq_nil_iff.2 ho) hne
  | some j =>
    rw [ho] at hissued
    obtain ⟨rfl, -⟩ : j = i ∧ [] = rest := by simpa [hissued.2] using hd
    rw [step_of_issuedOp hr ho]
    refine ⟨fun t he => ?_, fun x he => ?_, fun x he => ?_⟩ <;> rw [he] <;> rfl

/-! ### The rows of the block-processing phases -/

section Rows

variable {s t : State} (hr : s.resetIn = false)
include hr

theorem step_slice_eq_next (hp : s.phase = .slice) :
    step s = .next t ↔ 64 * s.j + 64 ≤ s.cfg.capacity ∧
      (∀ k < 64, (readByte s.cbuf (64 * s.j + k)).isSome = true) ∧
      t = startExpand { s with blk := blockAt s.cbuf (64 * s.j) } := by
  have hissued : issuedOp s = some .slice := by simp [issuedOp, hp]
  rw [step_of_issuedOp hr hissued, sequenced_eq_next]
  constructor
  · rintro ⟨u, he, rfl⟩
    obtain ⟨hk, hw, rfl⟩ := memReadBlock_eq_next.1 he
    exact ⟨hk, hw, rfl⟩
  · rintro ⟨hk, hw, rfl⟩
    exact ⟨_, memReadBlock_eq_next.2 ⟨hk, hw, rfl⟩, rfl⟩

theorem step_synth (hp : s.phase = .synth) :
    step s = .next (startExpand { s with
      blk := syntheticBlock s.markerEmitted s.lenSuffix
      markerEmitted := true
      synthPending := false }) :=
  step_of_exec_issuedOp hr (by simp [issuedOp, hp]) (exec_synth s)

/-- `LDW t` or `SCHED t` writes `W` only, and the sequencer counts on. -/
theorem step_scheduleWord (hp : s.phase = .expand) (hq : s.pos = .first) :
    ∃ w, step s = .next (afterScheduleWord { s with w := w }) := by
  by_cases ht : s.t.toNat < 16
  · exact ⟨_, step_of_exec_issuedOp hr (i := .ldw s.t) (by simp [issuedOp, hp, hq, ht])
      (execLdw_eq_next.2 ⟨ht, rfl⟩)⟩
  · exact ⟨_, step_of_exec_issuedOp hr (i := .sched s.t) (by simp [issuedOp, hp, hq, ht])
      (execSched_eq_next.2 ⟨Nat.not_lt.1 ht, rfl⟩)⟩

theorem step_ldv (hp : s.phase = .expand) (hq : s.pos ≠ .first) :
    step s = .next { s with v := s.h, phase := .compress, t := 0, pos := .first } :=
  step_of_exec_issuedOp hr (i := .ldv) (by simp [issuedOp, hp, hq]) rfl

/-- Rounds are counted as words are. -/
theorem step_round (hp : s.phase = .compress) (hq : s.pos = .first) :
    step s = .next (afterScheduleWord { s with
      v := roundOf s.v (scheduleWord romK s.t.toNat) (scheduleWord s.w s.t.toNat) }) :=
  step_of_exec_issuedOp hr (i := .round s.t) (by simp [issuedOp, hp, hq]) rfl

theorem step_ffwd (hp : s.phase = .compress) (hq : s.pos ≠ .first) :
    step s = .next (afterBlock { s with h := feedForward s.h s.v }) :=
  step_of_exec_issuedOp hr (i := .ffwd) (by simp [issuedOp, hp, hq]) rfl

/-- What `ROUND t` writes plays no part in where the sequencer goes. -/
theorem step_round_counts (hp : s.phase = .compress) (hq : s.pos = .first) :
    ∃ v, step s = .next (afterScheduleWord { s with v := v }) :=
  ⟨_, step_round hr hp hq⟩

/-- Nor does what `FFWD` writes. -/
theorem step_ffwd_moves (hp : s.phase = .compress) (hq : s.pos ≠ .first) :
    ∃ h, step s = .next (afterBlock { s with h := h }) :=
  ⟨_, step_ffwd hr hp hq⟩

end Rows

/-! ### Where the sequencer goes after a word, a round, a block -/

theorem afterScheduleWord_of_lt {s : State} (h : s.t.toNat < 63) :
    afterScheduleWord s = { s with t := s.t + 1, pos := .first } := if_pos h

theorem afterScheduleWord_of_last {s : State} (h : s.t.toNat = 63) :
    afterScheduleWord s = { s with pos := .second } := if_neg (by omega)

theorem afterBlock_next {s : State} (h : s.j + 1 < s.nblk) :
    afterBlock s = { s with phase := .slice, j := s.j + 1, pos := .first } := if_pos h

theorem afterBlock_synth {s : State} (h : s.j + 1 = s.nblk) (hs : s.synthPending = true) :
    afterBlock s = { s with phase := .synth, j := s.nblk, pos := .first } := by
  rw [afterBlock, if_neg (by omega), if_pos (by simp [h, hs])]

theorem afterBlock_fill {s : State} (h : s.nblk ≤ s.j + 1)
    (hs : s.j + 1 = s.nblk → s.synthPending = false) : afterBlock s = enterResting .fill s := by
  rw [afterBlock, if_neg (by omega), if_neg (by simpa using hs)]

theorem toNat_add_one_of_lt {t : BitVec 6} (h : t.toNat < 63) : (t + 1).toNat = t.toNat + 1 := by
  rw [BitVec.toNat_add]
  exact Nat.mod_eq_of_lt (Nat.succ_lt_succ h)

/-- Settles O46: the rows are the step equations, one operation each. -/
theorem sequencerFollowsItsTable : Obligations.SequencerFollowsItsTable := by
  intro s t hr h
  refine ⟨fun hp => ?slice, fun hp => ?synth, fun hp hq ht => ?word, fun hp hq ht => ?lastWord,
    fun hp hq => ?ldv, fun hp hq ht => ?round, fun hp hq ht => ?lastRound, fun hp hq hj => ?next,
    fun hp hq hj hs => ?toSynth, fun hp hq hj hs => ?chunkDone, fun hp hq hj => ?synthDone⟩
  case slice =>
    obtain ⟨-, -, rfl⟩ := (step_slice_eq_next hr hp).1 h
    simp
  case synth =>
    cases (step_synth hr hp).symm.trans h
    simp
  case word =>
    obtain ⟨w, hw⟩ := step_scheduleWord hr hp hq
    rw [afterScheduleWord_of_lt (s := { s with w := w }) ht] at hw
    cases hw.symm.trans h
    exact ⟨hp, rfl, toNat_add_one_of_lt ht, rfl⟩
  case lastWord =>
    obtain ⟨w, hw⟩ := step_scheduleWord hr hp hq
    rw [afterScheduleWord_of_last (s := { s with w := w }) ht] at hw
    cases hw.symm.trans h
    exact ⟨hp, rfl, rfl, rfl⟩
  case ldv =>
    cases (step_ldv hr hp hq).symm.trans h
    exact ⟨rfl, rfl, rfl, rfl⟩
  case round =>
    obtain ⟨v, hv⟩ := step_round_counts hr hp hq
    rw [afterScheduleWord_of_lt (s := { s with v := v }) ht] at hv
    cases hv.symm.trans h
    exact ⟨hp, rfl, toNat_add_one_of_lt ht, rfl⟩
  case lastRound =>
    obtain ⟨v, hv⟩ := step_round_counts hr hp hq
    rw [afterScheduleWord_of_last (s := { s with v := v }) ht] at hv
    cases hv.symm.trans h
    exact ⟨hp, rfl, rfl, rfl⟩
  case next =>
    obtain ⟨x, hx⟩ := step_ffwd_moves hr hp hq
    rw [afterBlock_next (s := { s with h := x }) hj] at hx
    cases hx.symm.trans h
    exact ⟨rfl, rfl, rfl⟩
  case toSynth =>
    obtain ⟨x, hx⟩ := step_ffwd_moves hr hp hq
    rw [afterBlock_synth (s := { s with h := x }) hj hs] at hx
    cases hx.symm.trans h
    exact ⟨rfl, rfl, rfl⟩
  case chunkDone =>
    obtain ⟨x, hx⟩ := step_ffwd_moves hr hp hq
    rw [afterBlock_fill (s := { s with h := x }) hj.ge fun _ => hs] at hx
    cases hx.symm.trans h
    exact ⟨rfl, rfl, rfl⟩
  case synthDone =>
    obtain ⟨x, hx⟩ := step_ffwd_moves hr hp hq
    rw [afterBlock_fill (s := { s with h := x }) hj.le fun h' => absurd h' hj.ne'] at hx
    cases hx.symm.trans h
    exact ⟨rfl, rfl, rfl⟩

/-! ### A block (R116, R144, R167) -/

/-- Word or round `n` is next, or, with 64 of them done, the operation that ends the row of R117. -/
def atIndex (n : Nat) (s : State) : State :=
  { s with t := BitVec.ofNat 6 (min n 63), pos := if n < 64 then .first else .second }

theorem atIndex_t {n : Nat} (h : n < 64) (s : State) : (atIndex n s).t = BitVec.ofNat 6 n := by
  rw [atIndex, min_eq_left (by omega)]

theorem toNat_atIndex_t {n : Nat} (h : n < 64) (s : State) : (atIndex n s).t.toNat = n := by
  rw [atIndex_t h, toNat_ofNat_index h]

theorem atIndex_pos {n : Nat} (h : n < 64) (s : State) : (atIndex n s).pos = .first := if_pos h

theorem atIndex_zero {s : State} (ht : s.t = 0) (hq : s.pos = .first) : atIndex 0 s = s := by
  rw [atIndex, if_pos (by decide), ← hq, show BitVec.ofNat 6 (min 0 63) = s.t from ht.symm]

/-- After word or round `n` of a row: one more is done. -/
theorem afterScheduleWord_atIndex {n : Nat} (hn : n < 64) (s : State) :
    afterScheduleWord (atIndex n s) = atIndex (n + 1) s := by
  have ht := atIndex_t hn s
  have hidx := toNat_atIndex_t hn s
  rcases Nat.lt_or_ge n 63 with h | h
  · rw [afterScheduleWord_of_lt (by omega), ht]
    simp only [atIndex, min_eq_left (show n + 1 ≤ 63 by omega), if_pos (show n + 1 < 64 by omega),
      BitVec.ofNat_add]
    rfl
  · obtain rfl : n = 63 := by omega
    exact afterScheduleWord_of_last hidx

theorem advance_expandOp (n : Nat) (s : State) : advance (expandOp n) s = afterScheduleWord s := by
  unfold expandOp
  split <;> rfl

theorem issuedOp_expand {s : State} (hp : s.phase = .expand) {n : Nat} (hn : n < 64) :
    issuedOp (atIndex n s) = some (expandOp n) := by
  have hphase : (atIndex n s).phase = .expand := hp
  simp only [issuedOp, hphase, atIndex_pos hn, atIndex_t hn, toNat_ofNat_index hn, if_true, expandOp,
    apply_ite some]

/-- EXPAND by the sequencer: after `n` steps the first `n` words of the schedule are there. -/
theorem runSteps_expand {s : State} (hr : s.resetIn = false) (hp : s.phase = .expand) {n : Nat}
    (hn : n ≤ 64) :
    ∃ w, runSteps n (atIndex 0 s) = .next (atIndex n { s with w := w }) ∧ HoldsSchedule s.blk n w := by
  induction n with
  | zero => exact ⟨s.w, rfl, fun t _ ht => absurd ht (Nat.not_lt_zero t)⟩
  | succ n ih =>
    obtain ⟨w, hrun, hw⟩ := ih (by omega)
    have hstep := step_of_exec_issuedOp (s := atIndex n { s with w := w }) hr (issuedOp_expand hp hn)
      (exec_expandOp hn hw)
    have hindex := afterScheduleWord_atIndex hn { s with w := w.set n (expandBlock s.blk)[n] }
    exact ⟨w.set n (expandBlock s.blk)[n],
      runSteps_snoc hrun (hstep.trans (congrArg _ ((advance_expandOp n _).trans hindex))), hw.set hn⟩

/-- COMPRESS by the sequencer, from the first round on. -/
theorem runSteps_rounds {s : State} (hr : s.resetIn = false) (hp : s.phase = .compress) {n : Nat}
    (hn : n ≤ 64) :
    runSteps n (atIndex 0 s) = .next (atIndex n { s with v := roundsOf s.w s.v n }) := by
  induction n with
  | zero => rfl
  | succ n ih =>
    have hstep := step_round (s := atIndex n { s with v := roundsOf s.w s.v n }) hr hp (atIndex_pos hn _)
    rw [toNat_atIndex_t hn] at hstep
    have hindex := afterScheduleWord_atIndex hn { s with v := roundsOf s.w s.v (n + 1) }
    exact runSteps_snoc (ih (by omega)) (hstep.trans (congrArg _ hindex))

/-- Settles O37: EXPAND, `LDV`, the rounds, `FFWD`, in 64 + 1 + 64 + 1 steps. -/
theorem sequencerProcessesABlock : Obligations.SequencerProcessesABlock := by
  intro s hr hp ht hq
  obtain ⟨w, hexpand, hw⟩ := runSteps_expand hr hp (le_refl 64)
  have hschedule : expandBlock s.blk = w := Vector.ext fun t ht => (hw t ht ht).symm
  rw [hashBlock, hschedule, compressHash]
  rw [atIndex_zero ht hq] at hexpand
  have hldv := runSteps_snoc hexpand (step_ldv hr hp (by simp [atIndex]))
  have hrounds := runSteps_add hldv
    (runSteps_rounds (s := { s with v := s.h, w := w, phase := .compress }) hr rfl (le_refl 64))
  exact runSteps_snoc hrounds (step_ffwd hr rfl (by simp [atIndex]))

end Sys2Proof.Machine
end

/-! ## The partial-chunk plan, the blocks of a chunk, and rest (spec/40_buffer_manager.md R103, R110, R117) -/

section
namespace Sys2Proof.Machine

/-! ### The PLAN row -/

section Rows

variable {s : State} (hr : s.resetIn = false) (hp : s.phase = .plan)
include hr hp

theorem step_mark (hq : s.pos = .first) (hc : s.bytesRead < s.cfg.capacity) :
    step s = .next { s with
      cbuf := writeBytes s.cbuf s.bytesRead [0x80]
      used := s.bytesRead + 1
      markerEmitted := true
      pos := .second } :=
  step_of_exec_issuedOp hr (i := .mark) (by simp [issuedOp, hp, hq]) (execMark_eq_next.2 ⟨hc, rfl⟩)

theorem step_zfill (hq : s.pos = .second) (hc : s.used + zfillCount s ≤ s.cfg.capacity) :
    step s = .next (afterZfill { s with
      cbuf := writeBytes s.cbuf s.used (List.replicate (zfillCount s) 0) }) :=
  step_of_exec_issuedOp hr (i := .zfill) (by simp [issuedOp, hp, hq])
    (memWrite_eq_next.2 ⟨by rwa [List.length_replicate], rfl⟩)

theorem step_suffix (hq : s.pos = .third) (hc : s.used + padZeros s.used + 8 ≤ s.cfg.capacity) :
    step s = .next (afterSuffix { s with
      cbuf := writeBytes s.cbuf (s.used + padZeros s.used) s.lenSuffix.toList }) :=
  step_of_exec_issuedOp hr (i := .suffix) (by simp [issuedOp, hp, hq])
    (memWrite_eq_next.2 ⟨by rwa [Vector.length_toList], rfl⟩)

end Rows

theorem afterZfill_overflow {s : State} (h : s.cfg.capacity - s.used < 8) :
    afterZfill s = startSlicing { s with nblk := s.cfg.capacity / 64, synthPending := true } :=
  if_pos (suffixOverflows_iff.2 h)

theorem afterZfill_fits {s : State} (h : 8 ≤ s.cfg.capacity - s.used) :
    afterZfill s = { s with pos := .third } :=
  if_neg fun ho => by have := suffixOverflows_iff.1 ho; omega

/-- What the plan puts behind `r` real bytes of a chunk of capacity `c`: the marker and zeros to the end of
the chunk where the suffix does not fit, else the marker, zeros and the suffix (R110). -/
def planBytes (c r : Nat) (suffix : Vector Byte 8) : List Byte :=
  if c - (r + 1) < 8 then 0x80 :: List.replicate (c - (r + 1)) 0
  else 0x80 :: List.replicate (padZeros (r + 1)) 0 ++ suffix.toList

theorem planBytes_overflow {c r : Nat} (h : c - (r + 1) < 8) (suffix : Vector Byte 8) :
    planBytes c r suffix = 0x80 :: List.replicate (c - (r + 1)) 0 ++ [] :=
  (if_pos h).trans (List.append_nil _).symm

theorem planBytes_fits {c r : Nat} (h : 8 ≤ c - (r + 1)) (suffix : Vector Byte 8) :
    planBytes c r suffix = 0x80 :: List.replicate (padZeros (r + 1)) 0 ++ suffix.toList :=
  if_neg (Nat.not_lt.2 h)

/-- The state at the first block of a chunk that the plan has padded, with its buffer. -/
def planned (s : State) (m : Memory) : State :=
  startSlicing { s with
    cbuf := m
    used := s.bytesRead + 1
    markerEmitted := true
    nblk := if s.cfg.capacity - (s.bytesRead + 1) < 8 then s.cfg.capacity / 64
      else (s.bytesRead + 1 + padZeros (s.bytesRead + 1) + 8) / 64
    synthPending := decide (s.cfg.capacity - (s.bytesRead + 1) < 8) }

/-- The PLAN row as one store behind the real bytes. -/
theorem runSteps_plan {s : State} (hv : s.cfg.Valid) (hr : s.resetIn = false) (hp : s.phase = .plan)
    (hq : s.pos = .first) (hc : s.bytesRead < s.cfg.capacity) :
    ∃ m, runSteps (if s.cfg.capacity - (s.bytesRead + 1) < 8 then 2 else 3) s = .next (planned s m) ∧
      ∀ a, readByte m a =
        readByte (writeBytes s.cbuf s.bytesRead (planBytes s.cfg.capacity s.bytesRead s.lenSuffix)) a := by
  have hmark := (runSteps_one s).trans (step_mark hr hp hq hc)
  have hzfill := step_zfill (s := { s with
    cbuf := writeBytes s.cbuf s.bytesRead [0x80], used := s.bytesRead + 1, markerEmitted := true,
    pos := .second }) hr hp rfl (zfill_fits hv hc)
  have hzeros (z : Nat) := readByte_writeBytes_append s.cbuf s.bytesRead [0x80] (List.replicate z 0)
  unfold planned
  rcases Nat.lt_or_ge (s.cfg.capacity - (s.bytesRead + 1)) 8 with h | h
  · rw [zfillCount_of_overflow h, afterZfill_overflow h] at hzfill
    rw [if_pos h, if_pos h, decide_eq_true h, planBytes_overflow h]
    rw [List.append_nil]
    exact ⟨_, runSteps_snoc hmark hzfill, hzeros _⟩
  · rw [zfillCount_of_fits h, afterZfill_fits h] at hzfill
    rw [if_neg (Nat.not_lt.2 h), if_neg (Nat.not_lt.2 h), decide_eq_false (Nat.not_lt.2 h),
      planBytes_fits h]
    have hsuffix := step_suffix (s := { s with
      cbuf := writeBytes (writeBytes s.cbuf s.bytesRead [0x80]) (s.bytesRead + 1)
        (List.replicate (padZeros (s.bytesRead + 1)) 0)
      used := s.bytesRead + 1, markerEmitted := true, pos := .third }) hr hp rfl
      (padding_fits hv.1 (show s.bytesRead + 1 + 8 ≤ s.cfg.capacity by omega))
    refine ⟨_, runSteps_snoc (runSteps_snoc hmark hzfill) hsuffix, fun a => ?_⟩
    rw [← readByte_writeBytes_append, List.length_cons, List.length_replicate, Nat.add_right_comm,
      ← Nat.add_assoc, Nat.add_right_comm]
    exact readByte_writeBytes_congr (hzeros _) _ _ a

/-- The padding ends with a block, inside the chunk, where the suffix fits. -/
theorem fitting_blocks {c r : Nat} (hc : c % 64 = 0) (h : 8 ≤ c - (r + 1)) :
    64 * ((r + 1 + padZeros (r + 1) + 8) / 64) = r + 1 + padZeros (r + 1) + 8 ∧
      r + 1 + padZeros (r + 1) + 8 ≤ c := by
  have hslot := (padZerosReachesTheSuffixSlot (r + 1)).2.2.2
  have hfits := padding_fits hc (show r + 1 + 8 ≤ c by omega)
  omega

/-- Marker, zeros and a tail behind the first `r` bytes, read offset by offset. -/
theorem readByte_padding (m : Memory) (r z : Nat) (tail : List Byte) (a : Nat) :
    readByte (writeBytes m r (0x80 :: List.replicate z 0 ++ tail)) a =
      if a < r then readByte m a else if a = r then some 0x80
      else if a < r + 1 + z then some 0
      else if a < r + 1 + z + tail.length then tail[a - (r + 1 + z)]? else readByte m a := by
  have hlen : (0x80 :: List.replicate z (0 : Byte) ++ tail).length = 1 + z + tail.length := by
    simp only [List.length_append, List.length_cons, List.length_replicate]
    omega
  rw [readByte_writeBytes, hlen, List.cons_append]
  rcases Nat.lt_trichotomy a r with h | rfl | h
  · rw [if_neg (by omega), if_pos h]
  · rw [if_pos (by omega), if_neg (by omega), if_pos rfl, Nat.sub_self, List.getElem?_cons_zero]
  · obtain ⟨i, rfl⟩ : ∃ i, a = r + 1 + i := ⟨a - (r + 1), by omega⟩
    rw [if_neg (show ¬r + 1 + i < r by omega), if_neg (show ¬r + 1 + i = r by omega),
      show r + 1 + i - r = i + 1 by omega, List.getElem?_cons_succ, Nat.add_sub_add_left]
    rcases Nat.lt_or_ge i z with hi | hi
    · rw [if_pos (by omega), if_pos (by omega), List.getElem?_append_left (by simpa using hi),
        List.getElem?_replicate_of_lt hi]
    · rw [if_neg (show ¬r + 1 + i < r + 1 + z by omega),
        List.getElem?_append_right (by simpa using hi), List.length_replicate]
      exact if_congr (by omega) rfl rfl

theorem readByte_planBytes_overflow (m : Memory) {c r : Nat} (hc : r < c) (h : c - (r + 1) < 8)
    (suffix : Vector Byte 8) (a : Nat) :
    readByte (writeBytes m r (planBytes c r suffix)) a =
      if a < r then readByte m a else if a = r then some 0x80
      else if a < c then some 0 else readByte m a := by
  rw [planBytes_overflow h, readByte_padding, Nat.add_sub_cancel' hc]
  simp only [List.length_nil, Nat.add_zero, List.getElem?_nil]
  split_ifs <;> rfl

theorem readByte_planBytes_fits (m : Memory) {c r n : Nat} (h : 8 ≤ c - (r + 1))
    (hn : n = r + 1 + padZeros (r + 1) + 8) (suffix : Vector Byte 8) (a : Nat) :
    readByte (writeBytes m r (planBytes c r suffix)) a =
      if a < r then readByte m a else if a = r then some 0x80
      else if a < n - 8 then some 0 else if a < n then suffix[a - (n - 8)]? else readByte m a := by
  rw [planBytes_fits h, readByte_padding, Vector.length_toList, Vector.getElem?_toList, hn,
    Nat.add_sub_cancel]

theorem planned_nblk_overflow {s : State} (h : s.cfg.capacity - (s.bytesRead + 1) < 8) (m : Memory) :
    (planned s m).nblk = s.cfg.capacity / 64 := if_pos h

theorem sixtyFour_mul_planned_nblk {s : State} (hv : s.cfg.Valid)
    (h : 8 ≤ s.cfg.capacity - (s.bytesRead + 1)) (m : Memory) :
    64 * (planned s m).nblk = s.bytesRead + 1 + padZeros (s.bytesRead + 1) + 8 := by
  have hn : (planned s m).nblk = (s.bytesRead + 1 + padZeros (s.bytesRead + 1) + 8) / 64 :=
    if_neg (Nat.not_lt.2 h)
  rw [hn, (fitting_blocks hv.1 h).1]

/-- The real bytes and what the plan puts behind them are whole blocks. -/
theorem length_planBytes {s : State} (hv : s.cfg.Valid) (hc : s.bytesRead < s.cfg.capacity) (m : Memory)
    (suffix : Vector Byte 8) :
    s.bytesRead + (planBytes s.cfg.capacity s.bytesRead suffix).length = 64 * (planned s m).nblk := by
  rcases Nat.lt_or_ge (s.cfg.capacity - (s.bytesRead + 1)) 8 with h | h
  · rw [planned_nblk_overflow h, (capacity_blocks hv).2, planBytes_overflow h, List.append_nil,
      List.length_cons, List.length_replicate]
    omega
  · rw [sixtyFour_mul_planned_nblk hv h, planBytes_fits h, List.length_append, List.length_cons,
      List.length_replicate, Vector.length_toList]
    omega

/-- The number of blocks of a padded chunk, in either case of the plan (R110). -/
theorem planned_nblk_bounds {s : State} (hv : s.cfg.Valid) (m : Memory) :
    1 ≤ (planned s m).nblk ∧ (planned s m).nblk ≤ s.cfg.capacity / 64 := by
  obtain ⟨hone, -⟩ := capacity_blocks hv
  rcases Nat.lt_or_ge (s.cfg.capacity - (s.bytesRead + 1)) 8 with h | h
  · rw [planned_nblk_overflow h]
    exact ⟨hone, le_rfl⟩
  · have hblocks := sixtyFour_mul_planned_nblk hv h m
    have hfits := (fitting_blocks hv.1 h).2
    omega

/-- Settles O30: the row as one store, read offset by offset, in either case. -/
theorem partialPlanLaysOutThePadding : Obligations.PartialPlanLaysOutThePadding := by
  intro s hv hr hp hq hc
  obtain ⟨m, hrun, hread⟩ := runSteps_plan hv hr hp hq hc
  obtain ⟨hone, hle⟩ := planned_nblk_bounds hv m
  refine ⟨_, hrun, rfl, rfl, rfl, rfl, rfl, fun h => ?overflow, fun h => ?fits, hone, hle, rfl⟩
  case overflow =>
    exact ⟨planned_nblk_overflow h m, decide_eq_true h,
      fun a => (hread a).trans (readByte_planBytes_overflow s.cbuf hc h s.lenSuffix a)⟩
  case fits =>
    have hblocks := sixtyFour_mul_planned_nblk hv h m
    exact ⟨hblocks, decide_eq_false (Nat.not_lt.2 h),
      fun a => (hread a).trans (readByte_planBytes_fits s.cbuf h hblocks s.lenSuffix a)⟩

/-! ### The blocks of a chunk (R103 lines 10 to 12) -/

/-- A block in the latch is folded into the hash state. -/
theorem leadsTo_afterBlock {s : State} (hr : s.resetIn = false) :
    ∃ w v, LeadsTo (startExpand s) (afterBlock { s with
      phase := .compress, t := 63, pos := .second, w := w, v := v, h := hashBlock s.h s.blk }) :=
  ⟨_, _, 130, sequencerProcessesABlock (startExpand s) hr rfl rfl rfl⟩

/-- `t` is `s` after the blocks of its chunk, with the hash state `h`: at rest in FILL, the flags as `SYNTH`
leaves them where it has run, the datapath and the sequencer's `j` and `t` anything. -/
def ChunkDone (h : Vector Word 8) (s t : State) : Prop :=
  ∃ v w blk j k, t = enterResting .fill { s with
    h := h, v := v, w := w, blk := blk, j := j, t := k
    markerEmitted := s.markerEmitted || s.synthPending, synthPending := false }

/-- Neither what the datapath held nor the sequencer state plays a part in what a done chunk is. -/
theorem ChunkDone.of_earlier {x : Vector Word 8} {s t : State} {h v : Vector Word 8} {w : Vector Word 64}
    {blk : Vector Byte 64} {p : Phase} {j : Nat} {k : BitVec 6} {q : Pos}
    (hd : ChunkDone x { s with h := h, v := v, w := w, blk := blk, phase := p, j := j, t := k, pos := q } t) :
    ChunkDone x s t := hd

/-- The synthetic block, where one is pending (R115). -/
def pendingBlock (s : State) : List (Vector Byte 64) :=
  if s.synthPending then [syntheticBlock s.markerEmitted s.lenSuffix] else []

theorem pendingBlock_of_pending {s : State} (h : s.synthPending = true) :
    pendingBlock s = [syntheticBlock s.markerEmitted s.lenSuffix] := if_pos h

theorem pendingBlock_of_none {s : State} (h : s.synthPending = false) : pendingBlock s = [] :=
  if_neg (by simp [h])

/-- Behind a padded chunk one is pending exactly where the suffix did not fit; the marker is out (R110). -/
theorem pendingBlock_planned (s : State) (m : Memory) :
    pendingBlock (planned s m) = if s.cfg.capacity - (s.bytesRead + 1) < 8 then
      [syntheticBlock true s.lenSuffix] else [] :=
  if_congr decide_eq_true_iff rfl rfl

/-- The synthetic block is the last of its chunk. -/
theorem leadsTo_synth {s : State} (hr : s.resetIn = false) (hp : s.phase = .synth)
    (hj : s.nblk ≤ s.j) (hs : s.synthPending = true) :
    ∃ t, LeadsTo s t ∧ ChunkDone ((pendingBlock s).foldl hashBlock s.h) s t := by
  have hstep := LeadsTo.of_step (step_synth hr hp)
  rw [pendingBlock_of_pending hs, List.foldl_cons, List.foldl_nil]
  generalize syntheticBlock s.markerEmitted s.lenSuffix = blk at hstep ⊢
  obtain ⟨w, v, hblock⟩ := leadsTo_afterBlock
    (s := { s with blk := blk, markerEmitted := true, synthPending := false }) hr
  rw [afterBlock_fill] at hblock
  · refine ⟨_, hstep.trans hblock, v, w, blk, s.j, 63, ?_⟩
    rw [hs, Bool.or_true]
    rfl
  · exact Nat.le_succ_of_le hj
  · exact fun _ => rfl

/-- Block `j` of the chunk, up to where the sequencer goes after it. -/
theorem leadsTo_slice {s : State} (hr : s.resetIn = false) (hp : s.phase = .slice)
    (hc : 64 * s.j + 64 ≤ s.cfg.capacity) (hw : Written s.cbuf (64 * s.j + 64)) :
    ∃ blk w v, LeadsTo s (afterBlock { s with
      phase := .compress, t := 63, pos := .second, blk := blk, w := w, v := v
      h := hashBlock s.h (blockAt s.cbuf (64 * s.j)) }) := by
  have hstep := LeadsTo.of_step
    ((step_slice_eq_next hr hp).2 ⟨hc, fun k hk => hw (64 * s.j + k) (by omega), rfl⟩)
  generalize blockAt s.cbuf (64 * s.j) = blk at hstep ⊢
  obtain ⟨w, v, hblock⟩ := leadsTo_afterBlock (s := { s with blk := blk }) hr
  exact ⟨blk, w, v, hstep.trans hblock⟩

theorem remainingBlocks_of_lt {s : State} (h : s.j < s.nblk) :
    remainingBlocks s = blockAt s.cbuf (64 * s.j) :: remainingBlocks { s with j := s.j + 1 } := by
  obtain ⟨n, hn⟩ : ∃ n, s.nblk - s.j = n + 1 := ⟨s.nblk - s.j - 1, by omega⟩
  have hn' : s.nblk - (s.j + 1) = n := by omega
  simp only [remainingBlocks, hn, hn', List.range'_succ, List.map_cons]

theorem remainingBlocks_of_ge {s : State} (h : s.nblk ≤ s.j) : remainingBlocks s = [] := by
  simp [remainingBlocks, Nat.sub_eq_zero_of_le h]

/-- The blocks from `j` on, and the synthetic one, by induction over the blocks that are left. -/
theorem leadsTo_chunkDone {s : State} (hr : s.resetIn = false) (hp : s.phase = .slice)
    (hj : s.j < s.nblk) (hc : 64 * s.nblk ≤ s.cfg.capacity) (hw : Written s.cbuf (64 * s.nblk)) :
    ∃ t, LeadsTo s t ∧
      ChunkDone ((remainingBlocks s ++ pendingBlock s).foldl hashBlock s.h) s t := by
  induction hn : s.nblk - s.j generalizing s with
  | zero => omega
  | succ n ih =>
    obtain ⟨blk, w, v, hblock⟩ := leadsTo_slice hr hp (by omega) fun k hk => hw k (by omega)
    rw [remainingBlocks_of_lt hj, List.cons_append, List.foldl_cons]
    generalize hashBlock s.h (blockAt s.cbuf (64 * s.j)) = h at hblock ⊢
    have hleft : s.nblk - (s.j + 1) = n := by omega
    rcases Nat.lt_or_ge (s.j + 1) s.nblk with hnext | hlast
    · rw [afterBlock_next] at hblock
      · obtain ⟨t, hrest, hdone⟩ := ih (s := { s with
          phase := .slice, j := s.j + 1, t := 63, pos := .first, blk := blk, w := w, v := v, h := h })
          hr rfl hnext hc hw hleft
        exact ⟨t, hblock.trans hrest, hdone.of_earlier⟩
      · exact hnext
    · rw [remainingBlocks_of_ge hlast, List.nil_append]
      cases hs : s.synthPending with
      | true =>
        rw [afterBlock_synth] at hblock
        · obtain ⟨t, hrest, hdone⟩ := leadsTo_synth (s := { s with
            phase := .synth, j := s.nblk, t := 63, pos := .first, blk := blk, w := w, v := v, h := h })
            hr rfl le_rfl hs
          exact ⟨t, hblock.trans hrest, hdone.of_earlier⟩
        · exact le_antisymm hj hlast
        · exact hs
      | false =>
        rw [afterBlock_fill] at hblock
        · refine ⟨_, hblock, v, w, blk, s.j, 63, ?_⟩
          rw [pendingBlock_of_none hs, hs, Bool.or_false]
          rfl
        · exact hlast
        · exact fun _ => hs

/-- Settles O38: what a done chunk is, register by register. -/
theorem chunkIsFoldedIntoTheHash : Obligations.ChunkIsFoldedIntoTheHash := by
  intro s hr hp hq hj hc hw
  obtain ⟨_, ⟨k, hrun⟩, v, w, blk, j, i, rfl⟩ := leadsTo_chunkDone hr hp hj hc hw
  exact ⟨k, _, hrun, rfl, ⟨rfl, rfl⟩, rfl, rfl, rfl, rfl, rfl, fun _ => rfl⟩

/-! ### The engine comes to rest (R117, R238) -/

theorem advance_resetIn (i : Instr) (s : State) : (advance i s).resetIn = s.resetIn := by
  cases i with
  | zfill =>
    simp only [advance, afterZfill]
    split <;> rfl
  | ldw _ | sched _ | round _ =>
    simp only [advance, afterScheduleWord, afterRound]
    split <;> rfl
  | ffwd =>
    simp only [advance, afterBlock]
    split_ifs <;> rfl
  | _ => rfl

/-- No operation applies reset: the host does (log 10). -/
theorem step_resetIn {s t : State} (hr : s.resetIn = false) (h : step s = .next t) :
    t.resetIn = false := by
  rcases step_eq_next.1 h with ⟨-, rfl⟩ | ⟨-, rfl⟩ | ⟨i, s', u, hf, he, rfl⟩
  · rfl
  · exact hr
  obtain ⟨-, -, hkeep, -⟩ := onlyTheNamedOperationsWrite i s' u he
  rw [advance_resetIn, hkeep]
  obtain ⟨-, ⟨-, rfl⟩ | ⟨-, -, rest, -, rfl⟩⟩ := fetch_eq_run hf <;> exact hr

/-- The blocks of the chunk behind the one at `j`, the synthetic one among them. -/
def blocksBehind (s : State) : Nat := s.nblk - (s.j + 1) + s.synthPending.toNat

/-- A bound on the steps to the end of the chunk: for each block `SLICE` or `SYNTH` and 130 more (R116), and
before them the operations of the plan. -/
def workLeft (s : State) : Nat :=
  match s.phase with
  | .plan => 131 * (s.cfg.capacity / 64 + 1) + if s.pos = .first then 3 else if s.pos = .second then 2 else 1
  | .slice => 131 * blocksBehind s + 131
  | .expand => 131 * blocksBehind s + if s.pos = .first then 130 - s.t.toNat else 66
  | .compress => 131 * blocksBehind s + if s.pos = .first then 65 - s.t.toNat else 1
  | .synth => 131
  | _ => 0

/-- A planned chunk has no more blocks than fit, and one more. -/
theorem workLeft_startSlicing {s : State} (hv : s.cfg.Valid) (hn : s.nblk ≤ s.cfg.capacity / 64) :
    workLeft (startSlicing s) ≤ 131 * (s.cfg.capacity / 64 + 1) := by
  obtain ⟨hone, -⟩ := capacity_blocks hv
  have hflag := Bool.toNat_le s.synthPending
  simp only [workLeft, startSlicing, blocksBehind]
  omega

theorem plan_progress {s : State} (hi : Inv s) (hr : s.resetIn = false) (hp : s.phase = .plan) :
    ∃ t, step s = .next t ∧ workLeft t < workLeft s := by
  obtain ⟨hpart, -⟩ := hi.plan hp
  obtain ⟨-, hused, -⟩ := hi.counts
  cases hq : s.pos with
  | first => exact ⟨_, step_mark hr hp hq hpart, by simp [workLeft, hp, hq]⟩
  | second =>
    have hleft : workLeft s = 131 * (s.cfg.capacity / 64 + 1) + 2 := by simp [workLeft, hp, hq]
    refine ⟨_, step_zfill hr hp hq (zfill_fits hi.config hused), ?_⟩
    rcases Nat.lt_or_ge (s.cfg.capacity - s.used) 8 with h | h
    · rw [afterZfill_overflow (by exact h), hleft]
      exact (workLeft_startSlicing (by exact hi.config) (by exact le_rfl)).trans_lt (by simp)
    · rw [afterZfill_fits (by exact h), hleft]
      simp [workLeft, hp]
  | third =>
    have hleft : workLeft s = 131 * (s.cfg.capacity / 64 + 1) + 1 := by simp [workLeft, hp, hq]
    have hfits : s.used + padZeros s.used + 8 ≤ s.cfg.capacity := suffix_inside hi hp hq
    refine ⟨_, step_suffix hr hp hq hfits, ?_⟩
    rw [hleft, Nat.lt_succ_iff]
    exact workLeft_startSlicing (by exact hi.config) (Nat.div_le_div_right hfits)

/-- Words and rounds are counted up, and then the row ends. -/
theorem count_progress {s : State} (hp : s.phase = .expand ∨ s.phase = .compress) (hq : s.pos = .first) :
    workLeft (afterScheduleWord s) < workLeft s := by
  have hbound : s.t.toNat < 64 := s.t.isLt
  rcases Nat.lt_or_ge s.t.toNat 63 with ht | ht
  · rw [afterScheduleWord_of_lt ht]
    have hnext := toNat_add_one_of_lt ht
    rcases hp with hp | hp <;>
      · simp only [workLeft, hp, hq, if_true, blocksBehind, hnext]
        omega
  · rw [afterScheduleWord_of_last (by omega)]
    rcases hp with hp | hp <;>
      · simp only [workLeft, hp, hq, if_true, if_neg (show ¬Pos.second = .first by decide), blocksBehind]
        omega

/-- After a block, one block fewer is left, or the chunk is done. -/
theorem afterBlock_progress {s : State} (hp : s.phase = .compress) (hq : s.pos ≠ .first) :
    workLeft (afterBlock s) < workLeft s := by
  have hleft : workLeft s = 131 * blocksBehind s + 1 := by simp [workLeft, hp, hq]
  rw [hleft]
  rcases Nat.lt_or_ge (s.j + 1) s.nblk with hnext | hlast
  · rw [afterBlock_next hnext]
    simp only [workLeft, blocksBehind]
    omega
  by_cases hs : s.j + 1 = s.nblk ∧ s.synthPending = true
  · obtain ⟨hj, hs⟩ := hs
    rw [afterBlock_synth hj hs]
    simp [workLeft, blocksBehind, hj, hs]
  · rw [afterBlock_fill hlast (by simpa using hs)]
    simp [workLeft]

theorem block_progress {s : State} (hi : Inv s) (hr : s.resetIn = false) (hp : blockPhase s.phase = true) :
    ∃ t, step s = .next t ∧ workLeft t < workLeft s := by
  cases hphase : s.phase with
  | slice =>
    obtain ⟨hc, hw⟩ := slice_inside hi hphase
    refine ⟨_, (step_slice_eq_next hr hphase).2 ⟨hc, fun k hk => hw _ (Nat.add_lt_add_left hk _), rfl⟩, ?_⟩
    simp [workLeft, hphase, startExpand, blocksBehind]
  | synth =>
    obtain ⟨-, -, -, -, hlast, -⟩ := hi.block hp
    obtain ⟨hj, -⟩ := hlast hphase
    refine ⟨_, step_synth hr hphase, ?_⟩
    simp [workLeft, hphase, startExpand, blocksBehind, hj]
  | expand =>
    by_cases hq : s.pos = .first
    · obtain ⟨w, hstep⟩ := step_scheduleWord hr hphase hq
      exact ⟨_, hstep, count_progress (s := { s with w := w }) (.inl hphase) hq⟩
    · exact ⟨_, step_ldv hr hphase hq, by simp [workLeft, hphase, hq, blocksBehind]⟩
  | compress =>
    by_cases hq : s.pos = .first
    · obtain ⟨v, hstep⟩ := step_round_counts hr hphase hq
      exact ⟨_, hstep, count_progress (s := { s with v := v }) (.inr hphase) hq⟩
    · obtain ⟨h, hstep⟩ := step_ffwd_moves hr hphase hq
      exact ⟨_, hstep, afterBlock_progress (s := { s with h := h }) hphase hq⟩
  | idle | probe | fill | plan | done | failed => simp [hphase, blockPhase] at hp

/-- Between boundaries the engine works on a chunk (R31). -/
theorem plan_or_block_of_not_resting {p : Phase} (h : restingPhase p = false) :
    p = .plan ∨ blockPhase p = true := by
  cases p <;> simp [restingPhase, blockPhase] at h ⊢

theorem issue_ne_nil_of_not_resting {s : State} (h : restingPhase s.phase = false) : issue s ≠ [] := by
  have huop (u : Byte) (k : BitVec 6) : uopBytes u k ≠ [] := List.cons_ne_nil _ _
  unfold issue
  cases hp : s.phase with
  | idle | probe | fill | done | failed => simp [hp, restingPhase] at h
  | slice | synth => exact huop _ _
  | plan => cases s.pos <;> exact huop _ _
  | expand =>
    dsimp only
    split_ifs <;> exact huop _ _
  | compress =>
    dsimp only
    split_ifs <;> exact huop _ _

/-- Settles O57: between boundaries each step is possible, and leaves less work. -/
theorem everyTransactionTerminates : Obligations.EveryTransactionTerminates := by
  intro s hi hr
  induction hn : workLeft s using Nat.strong_induction_on generalizing s with
  | _ n ih =>
    subst hn
    cases hrest : restingPhase s.phase with
    | true => exact ⟨0, s, rfl, hi.atBoundary hrest, rfl⟩
    | false =>
      obtain ⟨u, hstep, hless⟩ : ∃ u, step s = .next u ∧ workLeft u < workLeft s := by
        rcases plan_or_block_of_not_resting hrest with hp | hp
        · exact plan_progress hi hr hp
        · exact block_progress hi hr hp
      obtain ⟨k, t, hrun, hb, hin⟩ := ih _ hless u (everyStepKeepsTheInvariant s u hi hstep)
        (step_resetIn hr hstep) rfl
      have hkept : u.inbox = s.inbox :=
        (operationsAreUninterrupted s u hstep).1 (issue_ne_nil_of_not_resting hrest)
      exact ⟨1 + k, t, runSteps_add ((runSteps_one s).trans hstep) hrun, hb, hin.trans hkept⟩

end Sys2Proof.Machine
end

/-! ## The digest port (spec/40_buffer_manager.md R107, spec/43_digest_output.md R180, R181) -/

section
namespace Sys2Proof.Machine

theorem digest_of_done {s : State} (h : s.phase = .done) : digest s = some (digestBits s.h) := by
  simp [digest, digestValid, h]

theorem digest_of_not_done {s : State} (h : s.phase ≠ .done) : digest s = none := by
  simp [digest, digestValid, h]

/-- A slice above the last word is one of what stands in front of it. -/
theorem extractLsb'_append_word {m : Nat} (x : BitVec m) (y : Word) (k : Nat) :
    (x ++ y).extractLsb' (k + 32) 32 = x.extractLsb' k 32 := by
  rw [BitVec.extractLsb'_append_eq_of_le (Nat.le_add_left 32 k), Nat.add_sub_cancel]

theorem digestBits_slice (h : Vector Word 8) {k : Nat} (hk : k < 8) :
    (digestBits h).extractLsb' (224 - 32 * k) 32 = h[k] := by
  unfold digestBits
  rcases Nat.eq_zero_or_pos k with rfl | hpos
  · iterate 7 rw [extractLsb'_append_word]
    exact BitVec.extractLsb'_eq_self
  · interval_cases k
    all_goals
      repeat rw [extractLsb'_append_word]
      exact BitVec.extractLsb'_append_eq_right

/-- Strings of four bytes each, put together: string `k` stands at offset `4k`. -/
theorem flatMap_slice {α : Type} {f : α → List Byte} (hf : ∀ x, (f x).length = 4) {l : List α} {k : Nat}
    (hk : k < l.length) : ((l.flatMap f).drop (4 * k)).take 4 = f l[k] := by
  induction l generalizing k with
  | nil => exact absurd hk (Nat.not_lt_zero k)
  | cons x xs ih =>
    rw [List.flatMap_cons]
    cases k with
    | zero => rw [Nat.mul_zero, List.drop_zero, List.take_left' (hf x), List.getElem_cons_zero]
    | succ k =>
      rw [List.getElem_cons_succ, ← ih (Nat.lt_of_succ_lt_succ hk), Nat.mul_succ, Nat.add_comm,
        ← List.drop_drop, List.drop_left' (hf x)]

theorem length_digestBytes (h : Vector Word 8) : (digestBytes h).length = 32 := by
  simp [digestBytes, bytesBE32]

theorem digestBytes_slice (h : Vector Word 8) {k : Nat} (hk : k < 8) :
    ((digestBytes h).drop (4 * k)).take 4 = bytesBE32 h[k] := by
  rw [digestBytes, flatMap_slice (fun _ => rfl) (by simpa using hk), Vector.getElem_toList]

/-- In DONE no operation that writes `H` runs on: `FFWD` is not issued, and `START` leaves the phase. -/
theorem step_in_done {s t : State} (h : step s = .next t) (hs : s.phase = .done) (ht : t.phase = .done) :
    t.h = s.h := by
  rcases step_eq_next.1 h with ⟨-, rfl⟩ | ⟨-, rfl⟩ | ⟨i, s', u, hf, he, rfl⟩
  · simp at ht
  · rfl
  obtain ⟨-, ⟨hissued, rfl⟩ | ⟨-, hin, rest, -, rfl⟩⟩ := fetch_eq_run hf
  · obtain rfl : i = .done := by simpa [hs] using issuedOp_cases hissued
    cases he
    rfl
  · rw [advance_of_incoming hin] at ht ⊢
    obtain ⟨-, -, -, -, hwrite, -⟩ := onlyTheNamedOperationsWrite _ _ _ he
    by_contra hne
    rcases hwrite hne with rfl | rfl
    · obtain ⟨-, rfl⟩ := execStart_eq_next.1 he
      simp at ht
    · cases hin

/-- Settles O50: the port by the phase, the words as slices and as bytes, and what a step in DONE keeps. -/
theorem digestPortCarriesTheHash : Obligations.DigestPortCarriesTheHash := by
  refine ⟨fun s => ⟨digest_of_not_done, fun hd => ⟨_, digest_of_done hd, fun k hk => digestBits_slice s.h hk⟩,
    fun k hk => digestBytes_slice s.h hk, length_digestBytes s.h⟩, fun s t h hs ht => ?_⟩
  have hh := step_in_done h hs ht
  exact ⟨hh, by rw [digest_of_done ht, digest_of_done hs, hh]⟩

end Sys2Proof.Machine
end

/-! ## A whole run (spec/40_buffer_manager.md R118, R120, R121; spec/30_encoding.md R71) -/

section
namespace Sys2Proof.Machine

/-! ### The answers of a conforming source (R118, R121) -/

/-- What a source has not delivered yet. -/
def unreadBytes (src : ByteSource) : List Byte := src.message.drop src.position

/-- A string of bytes as a `DATA`. -/
def dataOf (p : List Byte) : Instr := .data (BitVec.ofNat 64 p.length) p

theorem readCount_eq (c : Nat) (src : ByteSource) : readCount c src = min c (unreadBytes src).length := by
  rw [readCount, unreadBytes, List.length_drop]

theorem readAnswer_eq (c : Nat) (src : ByteSource) :
    readAnswer c src = dataOf ((unreadBytes src).take c) := by
  have hlen : ((unreadBytes src).take c).length = readCount c src := by rw [readCount_eq, List.length_take]
  have htake : (unreadBytes src).take (readCount c src) = (unreadBytes src).take c := by
    rw [readCount_eq, ← List.take_eq_take_min]
  rw [dataOf, hlen, ← htake]
  rfl

theorem unreadBytes_afterRead (c : Nat) (src : ByteSource) :
    unreadBytes (afterRead c src) = (unreadBytes src).drop c := by
  have hdrop : unreadBytes (afterRead c src) = (unreadBytes src).drop (readCount c src) :=
    List.drop_drop.symm
  rw [hdrop, readCount_eq]
  rcases Nat.le_total c (unreadBytes src).length with h | h
  · rw [min_eq_left h]
  · rw [min_eq_right h, List.drop_length, List.drop_eq_nil_of_le h]

/-- The first `k` pieces of `c` bytes each, shorter or empty where the bytes run out. -/
def pieces (c k : Nat) (bs : List Byte) : List Instr :=
  (List.range k).map fun i => dataOf ((bs.drop (i * c)).take c)

theorem pieces_succ (c k : Nat) (bs : List Byte) :
    pieces c (k + 1) bs = dataOf (bs.take c) :: pieces c k (bs.drop c) := by
  simp only [pieces, List.range_succ_eq_map, List.map_cons, List.map_map, Nat.zero_mul, List.drop_zero]
  congr 1
  refine List.map_congr_left fun i _ => ?_
  simp only [Function.comp_apply, List.drop_drop, Nat.succ_mul, Nat.add_comm]

theorem pieces_snoc (c k : Nat) (bs : List Byte) :
    pieces c (k + 1) bs = pieces c k bs ++ [dataOf ((bs.drop (k * c)).take c)] := by
  simp only [pieces, List.range_succ, List.map_append, List.map_singleton]

theorem readAnswers_eq (c k : Nat) (src : ByteSource) :
    readAnswers c k src = pieces c k (unreadBytes src) := by
  induction k generalizing src with
  | zero => rfl
  | succ k ih => rw [readAnswers, ih, readAnswer_eq, pieces_succ, unreadBytes_afterRead]

theorem hashTrace_eq (c : Nat) (m : List Byte) :
    hashTrace c m = [.start, .len (BitVec.ofNat 64 m.length)] ++ pieces c (readRequests c m.length) m := by
  rw [hashTrace, readAnswers_eq]
  rfl

theorem pieces_full {c : Nat} {m : List Byte} :
    pieces c (m.length / c) m = (List.range (m.length / c)).map fun i =>
      .data (BitVec.ofNat 64 c) ((m.drop (i * c)).take c) := by
  refine List.map_congr_left fun i hi => ?_
  have hle : (i + 1) * c ≤ m.length :=
    (Nat.mul_le_mul_right c (List.mem_range.1 hi)).trans (Nat.div_mul_le_self _ _)
  rw [dataOf, List.length_take_of_le (by rw [List.length_drop, Nat.succ_mul] at *; omega)]

/-- The piece behind the full ones is what is left. -/
theorem dataOf_rest {c : Nat} (hc : 0 < c) (m : List Byte) :
    dataOf ((m.drop (m.length / c * c)).take c) =
      .data (BitVec.ofNat 64 (m.length % c)) (m.drop (m.length / c * c)) := by
  have hlen : (m.drop (m.length / c * c)).length = m.length % c := by
    rw [List.length_drop, Nat.mod_eq_sub_div_mul]
  rw [List.take_of_length_le (hlen ▸ (Nat.mod_lt _ hc).le), dataOf, hlen]

theorem dataOf_beyond {c k : Nat} {m : List Byte} (h : m.length ≤ k) :
    dataOf ((m.drop k).take c) = .data 0 [] := by
  rw [List.drop_eq_nil_of_le h, List.take_nil]
  rfl

/-- Settles O59: full pieces, then the rest, then nothing. -/
theorem conformingAnswersOfARun : Obligations.ConformingAnswersOfARun := by
  intro c m hc
  rw [hashTrace_eq, readRequests]
  have hend : m.length ≤ (m.length / c + 1) * c := (Nat.lt_mul_of_div_lt (Nat.lt_succ_self _) hc).le
  split_ifs with h
  · rw [pieces_snoc, pieces_snoc, pieces_full, dataOf_rest hc, dataOf_beyond hend]
    simp only [List.append_assoc]
  · have hmod : m.length % c = 0 := by simpa using (not_or.1 h).1
    rw [pieces_snoc, pieces_full, dataOf_beyond (Nat.div_mul_cancel (Nat.dvd_of_mod_eq_zero hmod)).ge]
    simp only [List.append_assoc, List.append_nil]

end Sys2Proof.Machine
end

/-! ## The padded message against the blocks of the engine (spec/30_encoding.md R71) -/

section
namespace Sys2Proof.Machine

/-! ### Blocks of a string of bytes -/

theorem blockOf_append_left {xs : List Byte} {i : Nat} (h : 64 * i + 64 ≤ xs.length) (ys : List Byte) :
    blockOf (xs ++ ys) i = blockOf xs i := by
  refine Vector.ext fun k hk => ?_
  simp only [blockOf, Vector.getElem_ofFn]
  exact List.getD_append _ _ _ _ (by omega)

theorem blockOf_append_right {xs : List Byte} {n : Nat} (h : xs.length = 64 * n) (ys : List Byte) (i : Nat) :
    blockOf (xs ++ ys) (n + i) = blockOf ys i := by
  refine Vector.ext fun k hk => ?_
  simp only [blockOf, Vector.getElem_ofFn]
  rw [List.getD_append_right _ _ _ _ (by omega), h]
  congr 1
  omega

theorem blocksOf_append {xs : List Byte} (h : xs.length % 64 = 0) (ys : List Byte) :
    blocksOf (xs ++ ys) = blocksOf xs ++ blocksOf ys := by
  obtain ⟨n, hn⟩ := Nat.dvd_of_mod_eq_zero h
  have hcount : (xs ++ ys).length / 64 = n + ys.length / 64 := by
    rw [List.length_append]
    omega
  simp only [blocksOf_eq]
  rw [hcount, List.range_add, List.map_append, List.map_map, show xs.length / 64 = n by omega]
  refine congrArg₂ (· ++ ·) (List.map_congr_left fun i hi => ?_)
    (List.map_congr_left fun i _ => blockOf_append_right hn ys i)
  have := List.mem_range.1 hi
  exact blockOf_append_left (by omega) ys

theorem blocksOf_toList (v : Vector Byte 64) : blocksOf v.toList = [v] := by
  rw [blocksOf_eq, Vector.length_toList]
  refine congrArg (· :: []) (Vector.ext fun k hk => ?_)
  simp [blockOf]

/-- The blocks of a chunk, where the buffer holds them from offset 0 on. -/
theorem remainingBlocks_eq_blocksOf {s : State} {xs : List Byte} (hj : s.j = 0)
    (hlen : xs.length = 64 * s.nblk) (hread : ∀ a < xs.length, readByte s.cbuf a = xs[a]?) :
    remainingBlocks s = blocksOf xs := by
  rw [remainingBlocks, blocksOf_eq, hj, Nat.sub_zero, hlen, Nat.mul_div_cancel_left _ (by decide),
    ← List.range_eq_range']
  refine List.map_congr_left fun i hi => Vector.ext fun k hk => ?_
  have := List.mem_range.1 hi
  rw [blockAt_getElem _ _ _ hk, hread _ (by omega)]
  simp [blockOf]

/-! ### What the engine appends is the padding of R71 -/

/-- `len_suffix` of a message of `l` bytes (R72). -/
def lengthSuffix (l : Nat) : Vector Byte 8 := bytesBE64 (8 * BitVec.ofNat 64 l)

/-- What `PAD` puts behind a message of `l` bytes (R71). -/
def padTail (l : Nat) : List Byte :=
  0x80 :: List.replicate (paddingZeros l) 0 ++ (lengthSuffix l).toList

theorem padMessage_eq (m : List Byte) : padMessage m = m ++ padTail m.length := by
  rw [padMessage, List.append_assoc, List.append_assoc]
  rfl

theorem syntheticBlock_toList (marked : Bool) (suffix : Vector Byte 8) :
    (syntheticBlock marked suffix).toList =
      (if marked then 0x00 else 0x80) :: List.replicate 55 0 ++ suffix.toList := by
  refine List.ext_getElem (by simp) fun k hk _ => ?_
  have hk : k < 64 := by simpa using hk
  rw [Vector.getElem_toList]
  rcases Nat.lt_or_ge k 56 with h | h
  · rw [List.getElem_append_left (by simpa using h)]
    cases k with
    | zero => cases marked <;> simp [syntheticBlock_first]
    | succ k =>
      rw [syntheticBlock_zeros _ _ hk (by omega) (by omega), List.getElem_cons_succ, List.getElem_replicate]
  · obtain ⟨i, rfl⟩ := Nat.exists_eq_add_of_le h
    rw [syntheticBlock_suffix marked suffix (by omega), List.getElem_append_right (by simp)]
    simp

/-- Where the message ends with a full chunk, the synthetic block is the whole padding (R109, R115). -/
theorem blocksOf_padTail_full {p : List Byte} {l : Nat} (hp : p.length % 64 = 0) (hl : l % 64 = 0) :
    blocksOf (p ++ padTail l) = blocksOf p ++ [syntheticBlock false (lengthSuffix l)] := by
  have hzeros : paddingZeros l = 55 := by rw [paddingZeros, hl]
  have htail : padTail l = (syntheticBlock false (lengthSuffix l)).toList := by
    rw [syntheticBlock_toList, padTail, hzeros]
    rfl
  rw [blocksOf_append hp, htail, blocksOf_toList]

/-- Where it ends inside a chunk, the plan's bytes and the synthetic block that may follow are (R110). -/
theorem blocksOf_padTail_partial {p : List Byte} {c l : Nat} (hc : c % 64 = 0) (hp : p.length < c)
    (hl : l % 64 = p.length % 64) :
    blocksOf (p ++ padTail l) = blocksOf (p ++ planBytes c p.length (lengthSuffix l)) ++
      if c - (p.length + 1) < 8 then [syntheticBlock true (lengthSuffix l)] else [] := by
  rcases Nat.lt_or_ge (c - (p.length + 1)) 8 with h | h
  · have hzeros : paddingZeros l = c - (p.length + 1) + (1 + 55) := by
      rw [paddingZeros, hl]
      omega
    have htail : padTail l = planBytes c p.length (lengthSuffix l) ++
        (syntheticBlock true (lengthSuffix l)).toList := by
      rw [syntheticBlock_toList, padTail, hzeros, planBytes_overflow h, List.append_nil,
        List.replicate_add, List.replicate_add]
      simp
    have hlen : (p ++ planBytes c p.length (lengthSuffix l)).length % 64 = 0 := by
      rw [planBytes_overflow h, List.append_nil, List.length_append, List.length_cons,
        List.length_replicate]
      omega
    rw [if_pos h, htail, ← List.append_assoc, blocksOf_append hlen, blocksOf_toList]
  · have hzeros : paddingZeros l = padZeros (p.length + 1) := by
      rw [paddingZeros, padZeros, hl]
      split_ifs <;> omega
    rw [if_neg (Nat.not_lt.2 h), List.append_nil, planBytes_fits h, padTail, hzeros]

end Sys2Proof.Machine
end

/-! ## The engine on the answers of a conforming source (spec/40_buffer_manager.md R120, R121) -/

section
namespace Sys2Proof.Machine

/-! ### A transaction that has arrived -/

theorem step_transaction {s : State} {i : Instr} {rest : List Byte} (hr : s.resetIn = false)
    (hb : AtBoundary s) (hin : incomingOp i = true) (hw : i.WellFormed)
    (hinbox : s.inbox = encode i ++ rest) : step s = exec i { s with inbox := rest } :=
  stepRunsTheTransaction s i rest hr hb (hinbox ▸ decodeEncodeRoundTrip i rest hw) hin

theorem traceBytes_cons (i : Instr) (is : List Instr) : traceBytes (i :: is) = encode i ++ traceBytes is :=
  List.flatMap_cons

/-! ### A chunk, from `DATA` to the next read -/

/-- Between the chunks of a run on a message of `l` bytes: at rest in FILL, no error, the length recorded. -/
structure AwaitsChunk (c : Config) (l : Nat) (s : State) : Prop where
  phase : s.phase = .fill
  first : s.pos = .first
  noReset : s.resetIn = false
  config : s.cfg = c
  noError : s.err = 0
  suffix : s.lenSuffix = lengthSuffix l

theorem AwaitsChunk.atBoundary {c : Config} {l : Nat} {s : State} (h : AwaitsChunk c l s) : AtBoundary s :=
  ⟨by rw [h.phase]; rfl, h.first⟩

/-- From `s` to `t` the blocks `bs` have been folded into the hash state, the read after them has been asked
for, and `inbox` is left on the incoming interface. -/
structure Folds (bs : List (Vector Byte 64)) (inbox : List Byte) (s t : State) : Prop where
  hash : t.h = bs.foldl hashBlock s.h
  inbox : t.inbox = inbox
  outbox : t.outbox = s.outbox ++ [headerBits 0x21 (BitVec.ofNat 64 s.cfg.capacity)]

/-- The blocks of a planned chunk whose bytes are `xs`. -/
theorem leadsTo_fill {c : Config} {l : Nat} {s : State} {xs : List Byte} (hp : s.phase = .slice)
    (hr : s.resetIn = false) (hcfg : s.cfg = c) (herr : s.err = 0) (hsuffix : s.lenSuffix = lengthSuffix l)
    (hj : s.j = 0) (hn : 1 ≤ s.nblk) (hlen : xs.length = 64 * s.nblk) (hfit : xs.length ≤ c.capacity)
    (hread : ∀ a < xs.length, readByte s.cbuf a = xs[a]?) :
    ∃ t, LeadsTo s t ∧ AwaitsChunk c l t ∧ Folds (blocksOf xs ++ pendingBlock s) s.inbox s t ∧
      t.markerEmitted = (s.markerEmitted || s.synthPending) ∧ t.bytesRemaining = s.bytesRemaining := by
  have hwritten : Written s.cbuf (64 * s.nblk) := fun a ha => by
    have ha : a < xs.length := by omega
    rw [hread a ha, List.getElem?_eq_getElem ha]
    rfl
  obtain ⟨_, hrun, v, w, blk, j, k, rfl⟩ := leadsTo_chunkDone hr hp (by omega)
    (by rw [hcfg]; omega) hwritten
  rw [remainingBlocks_eq_blocksOf hj hlen hread] at hrun
  exact ⟨_, hrun, ⟨rfl, rfl, hr, hcfg, herr, hsuffix⟩, ⟨rfl, rfl, rfl⟩, rfl, rfl⟩

section Chunks

variable {c : Config} {l : Nat} {s : State} {n : BitVec 64} {p rest : List Byte} (hs : AwaitsChunk c l s)
  (hv : c.Valid) (hm : s.markerEmitted = false) (hn : p.length = n.toNat)
  (hinbox : s.inbox = encode (.data n p) ++ rest)
include hs hv hm hn hinbox

/-- A `DATA` that passes the checks is stored and planned. -/
theorem step_data (hc : n.toNat ≤ c.capacity) (hle : n.toNat ≤ s.bytesRemaining.toNat)
    (hchunk : n.toNat = c.capacity ∨ n = s.bytesRemaining) :
    step s = .next (planChunk n { s with inbox := rest, cbuf := writeBytes s.cbuf 0 p }) := by
  obtain ⟨-, hpos, -⟩ := hv
  have hne (h : n.toNat = c.capacity) : n ≠ 0 := by
    rintro rfl
    simp at h
    omega
  have hchunk' : n.toNat = s.cfg.capacity ∧ n ≠ 0 ∨ n = s.bytesRemaining := by
    rw [hs.config]
    exact hchunk.imp_left fun h => ⟨h, hne h⟩
  rw [step_transaction hs.noReset hs.atBoundary rfl (wellFormed_data_iff.2 hn) hinbox]
  exact execData_chunk (s := { s with inbox := rest }) ⟨hs.phase, hn⟩ (hs.config ▸ hc) hle (fun _ => hm)
    hchunk'

/-- A full chunk: its blocks, and a synthetic one exactly if nothing remains (R109). -/
theorem leadsTo_fullChunk (hfull : n.toNat = c.capacity) (hle : n.toNat ≤ s.bytesRemaining.toNat) :
    ∃ t, LeadsTo s t ∧ AwaitsChunk c l t ∧
      Folds (blocksOf p ++ if n = s.bytesRemaining then [syntheticBlock false (lengthSuffix l)] else [])
        rest s t ∧
      t.markerEmitted = decide (n = s.bytesRemaining) ∧ t.bytesRemaining = s.bytesRemaining - n := by
  have hstep := LeadsTo.of_step (step_data hs hv hm hn hinbox hfull.le hle (.inl hfull))
  obtain ⟨hone, hblocks⟩ := capacity_blocks hv
  have hfull' : n.toNat = s.cfg.capacity := by rw [hfull, hs.config]
  rw [planChunk_full (by exact hfull')] at hstep
  set u := startSlicing (planFullChunk { s with
    inbox := rest, cbuf := writeBytes s.cbuf 0 p
    bytesRead := n.toNat, bytesRemaining := s.bytesRemaining - n }) with hu
  have hnblk : u.nblk = c.capacity / 64 := by simp [hu, hs.config]
  have hflag : u.synthPending = decide (n = s.bytesRemaining) := sub_beq_zero _ _
  have hpending : pendingBlock u =
      if n = s.bytesRemaining then [syntheticBlock false (lengthSuffix l)] else [] := by
    simp only [pendingBlock, hflag, decide_eq_true_eq, ← hs.suffix, ← hm]
    rfl
  obtain ⟨t, hrun, hawaits, hfolds, hmarked, hleft⟩ := leadsTo_fill (xs := p) (s := u) rfl hs.noReset
    hs.config hs.noError hs.suffix rfl (hnblk ▸ hone) (by rw [hnblk, hblocks, hn, hfull])
    (hn.trans hfull).le fun a ha => readByte_writeBytes_zero ha
  rw [hpending] at hfolds
  rw [hflag, show u.markerEmitted = false from hm, Bool.false_or] at hmarked
  exact ⟨t, hstep.trans hrun, hawaits, ⟨hfolds.hash, hfolds.inbox, hfolds.outbox⟩, hmarked, hleft⟩

/-- A chunk that is not full is the last: its bytes with the padding behind them (R110). -/
theorem leadsTo_partialChunk (hpart : n.toNat < c.capacity) (hlast : n = s.bytesRemaining)
    (hl : l % 64 = p.length % 64) :
    ∃ t, LeadsTo s t ∧ AwaitsChunk c l t ∧ Folds (blocksOf (p ++ padTail l)) rest s t ∧
      t.markerEmitted = true := by
  have hstep := LeadsTo.of_step (step_data hs hv hm hn hinbox hpart.le (hlast ▸ le_rfl) (.inr hlast))
  rw [planChunk_partial (by exact hs.config ▸ hpart.ne)] at hstep
  set u : State := { s with
    inbox := rest, cbuf := writeBytes s.cbuf 0 p, bytesRead := n.toNat
    bytesRemaining := s.bytesRemaining - n, phase := .plan, pos := .first }
  have hvalid : u.cfg.Valid := hs.config ▸ hv
  have hcap : u.cfg.capacity = c.capacity := by rw [← hs.config]
  have hcount : u.bytesRead = p.length := hn.symm
  have hreal : u.bytesRead < u.cfg.capacity := by omega
  obtain ⟨m, hplan, hread⟩ := runSteps_plan hvalid hs.noReset rfl rfl hreal
  obtain ⟨hone, hblocks⟩ := planned_nblk_bounds hvalid m
  have hlen := length_planBytes hvalid hreal m (lengthSuffix l)
  have hpending := pendingBlock_planned u m
  rw [show u.lenSuffix = lengthSuffix l from hs.suffix, hcap, hcount] at hpending hread
  rw [hcap, hcount, ← List.length_append] at hlen
  obtain ⟨t, hrun, hawaits, hfolds, hmarked, -⟩ := leadsTo_fill (s := planned u m) rfl hs.noReset
    hs.config hs.noError hs.suffix rfl hone hlen (by omega) fun a ha => by
      rw [← readByte_writeBytes_zero (m := s.cbuf) ha, ← readByte_writeBytes_append, Nat.zero_add]
      exact hread a
  rw [hpending, ← blocksOf_padTail_partial hv.1 (hn.symm ▸ hpart) hl] at hfolds
  exact ⟨t, hstep.trans (.trans ⟨_, hplan⟩ hrun), hawaits,
    ⟨hfolds.hash, hfolds.inbox, hfolds.outbox⟩, hmarked⟩

/-- The last chunk, full or not: its bytes with the whole padding behind them. -/
theorem leadsTo_lastChunk (hc : n.toNat ≤ c.capacity) (hlast : n = s.bytesRemaining)
    (hl : l % 64 = p.length % 64) :
    ∃ t, LeadsTo s t ∧ AwaitsChunk c l t ∧ Folds (blocksOf (p ++ padTail l)) rest s t ∧
      t.markerEmitted = true := by
  rcases Nat.lt_or_eq_of_le hc with hpart | hfull
  · exact leadsTo_partialChunk hs hv hm hn hinbox hpart hlast hl
  · obtain ⟨t, hrun, hawaits, hfolds, hmarked, -⟩ :=
      leadsTo_fullChunk hs hv hm hn hinbox hfull (hlast ▸ le_rfl)
    have hmod : p.length % 64 = 0 := hn.trans hfull ▸ hv.1
    rw [if_pos hlast, ← blocksOf_padTail_full hmod (hl.trans hmod)] at hfolds
    exact ⟨t, hrun, hawaits, hfolds, hmarked.trans (decide_eq_true hlast)⟩

end Chunks

/-! ### From the first read to DONE -/

theorem readRequests_of_le {c n : Nat} (hc : 0 < c) (h : n ≤ c) : readRequests c n = 2 := by
  rw [readRequests]
  rcases Nat.lt_or_eq_of_le h with hlt | rfl
  · rw [Nat.mod_eq_of_lt hlt, Nat.div_eq_of_lt hlt, if_pos (ne_or_eq n 0)]
  · rw [if_neg (by simp; omega), Nat.div_self hc]

/-- One read more for one full chunk more. -/
theorem readRequests_of_gt {c n : Nat} (hc : 0 < c) (h : c < n) :
    readRequests c n = readRequests c (n - c) + 1 := by
  obtain ⟨d, rfl⟩ := Nat.exists_eq_add_of_le' h.le
  have hd : d ≠ 0 := by omega
  simp only [readRequests, Nat.add_sub_cancel, Nat.add_mod_right, Nat.add_div_right d hc, hd,
    show d + c ≠ 0 by omega, or_false]
  split_ifs <;> rfl

theorem readRequests_pos (c n : Nat) : 0 < readRequests c n := by
  unfold readRequests
  split <;> exact Nat.succ_pos _

/-- From `s` to `t` the run has ended with the hash `h`, and the headers `out` have been emitted. -/
structure EndsRun (h : Vector Word 8) (out : List (BitVec 72)) (s t : State) : Prop where
  phase : t.phase = .done
  first : t.pos = .first
  noError : t.err = 0
  hash : t.h = h
  inbox : t.inbox = []
  outbox : t.outbox = s.outbox ++ out

/-- The zero-byte read after the padding (R103 line 3). -/
theorem step_stop {c : Config} {l : Nat} {s : State} (hs : AwaitsChunk c l s) (hm : s.markerEmitted = true)
    (hinbox : s.inbox = traceBytes [.data 0 []]) :
    step s = .next (enterResting .done { s with inbox := [] }) := by
  rw [step_transaction (i := .data 0 []) (rest := []) hs.noReset hs.atBoundary rfl rfl hinbox]
  exact execData_eq_next.2 ⟨rfl, hs.phase, .inr (.inl ⟨dataError_none_of_stop hm, ⟨rfl, hm⟩, rfl⟩)⟩

/-- The last chunk and the zero-byte read behind it. -/
theorem leadsTo_done_of_last {c : Config} {l : Nat} {s : State} {bs : List Byte} (hv : c.Valid)
    (hs : AwaitsChunk c l s) (hm : s.markerEmitted = false)
    (hrem : s.bytesRemaining = BitVec.ofNat 64 bs.length) (hl : l % 64 = bs.length % 64)
    (hle : bs.length ≤ c.capacity)
    (hinbox : s.inbox = traceBytes (pieces c.capacity 2 bs)) :
    ∃ t, LeadsTo s t ∧ EndsRun ((blocksOf (bs ++ padTail l)).foldl hashBlock s.h)
      [headerBits 0x21 (BitVec.ofNat 64 c.capacity), headerBits 0x28 0] s t := by
  obtain ⟨-, -, hlt, -⟩ := id hv
  have hcount : (BitVec.ofNat 64 bs.length).toNat = bs.length := Nat.mod_eq_of_lt (by omega)
  rw [pieces_succ, pieces_succ, List.take_of_length_le hle, List.drop_eq_nil_of_le hle, List.take_nil,
    traceBytes_cons] at hinbox
  obtain ⟨t, hrun, hawaits, hfolds, hmarked⟩ := leadsTo_lastChunk hs hv hm hcount.symm hinbox
    (hcount.le.trans hle) hrem.symm hl
  refine ⟨_, hrun.trans (.of_step (step_stop hawaits hmarked hfolds.inbox)), rfl, rfl, hawaits.noError,
    hfolds.hash, rfl, ?_⟩
  rw [enterResting_outbox, entryHeaders_done, hfolds.outbox, hs.config, List.append_assoc]
  rfl

/-- A full chunk that is not the last. -/
theorem leadsTo_nextRead {c : Config} {l : Nat} {s : State} {bs : List Byte} {is : List Instr}
    (hv : c.Valid) (hs : AwaitsChunk c l s) (hm : s.markerEmitted = false)
    (hrem : s.bytesRemaining = BitVec.ofNat 64 bs.length) (hbound : bs.length < 2 ^ 64)
    (hmore : c.capacity < bs.length) (hinbox : s.inbox = traceBytes (dataOf (bs.take c.capacity) :: is)) :
    ∃ t, LeadsTo s t ∧ AwaitsChunk c l t ∧ Folds (blocksOf (bs.take c.capacity)) (traceBytes is) s t ∧
      t.markerEmitted = false ∧ t.bytesRemaining = BitVec.ofNat 64 (bs.drop c.capacity).length := by
  obtain ⟨-, -, hlt, -⟩ := id hv
  have hlen : (bs.take c.capacity).length = c.capacity := List.length_take_of_le hmore.le
  have hcount : (BitVec.ofNat 64 c.capacity).toNat = c.capacity := Nat.mod_eq_of_lt hlt
  have hremNat : s.bytesRemaining.toNat = bs.length := by
    rw [hrem]
    exact Nat.mod_eq_of_lt hbound
  have hnotLast : BitVec.ofNat 64 c.capacity ≠ s.bytesRemaining := fun h => by
    have := congrArg BitVec.toNat h
    omega
  rw [traceBytes_cons, dataOf, hlen] at hinbox
  obtain ⟨t, hrun, hawaits, hfolds, hmarked, hleft⟩ := leadsTo_fullChunk hs hv hm
    (hlen.trans hcount.symm) hinbox hcount (by omega)
  rw [if_neg hnotLast, List.append_nil] at hfolds
  refine ⟨t, hrun, hawaits, hfolds, hmarked.trans (decide_eq_false hnotLast), ?_⟩
  rw [hleft, hrem, List.length_drop, BitVec.ofNat_sub_ofNat_of_le _ _ hlt hmore.le]

/-- By induction over the bytes that are left: full chunks, then the last one. -/
theorem leadsTo_done {c : Config} {l : Nat} {s : State} {bs : List Byte} (hv : c.Valid)
    (hs : AwaitsChunk c l s) (hm : s.markerEmitted = false)
    (hrem : s.bytesRemaining = BitVec.ofNat 64 bs.length) (hbound : bs.length < 2 ^ 64)
    (hl : l % 64 = bs.length % 64)
    (hinbox : s.inbox = traceBytes (pieces c.capacity (readRequests c.capacity bs.length) bs)) :
    ∃ t, LeadsTo s t ∧ EndsRun ((blocksOf (bs ++ padTail l)).foldl hashBlock s.h)
      (List.replicate (readRequests c.capacity bs.length - 1)
        (headerBits 0x21 (BitVec.ofNat 64 c.capacity)) ++ [headerBits 0x28 0]) s t := by
  obtain ⟨hmod, hpos, -⟩ := id hv
  induction hn : bs.length using Nat.strong_induction_on generalizing s bs with
  | _ n ih =>
    subst hn
    rcases Nat.lt_or_ge c.capacity bs.length with hmore | hle
    · have hdrop : (bs.drop c.capacity).length = bs.length - c.capacity := List.length_drop
      have htake : (bs.take c.capacity).length % 64 = 0 := by rwa [List.length_take_of_le hmore.le]
      rw [readRequests_of_gt hpos hmore, pieces_succ, ← hdrop] at hinbox
      obtain ⟨t, hrun, hawaits, hfolds, hmarked, hleft⟩ :=
        leadsTo_nextRead hv hs hm hrem hbound hmore hinbox
      obtain ⟨u, hrest, hend⟩ := ih (bs.drop c.capacity).length (by omega) hawaits hmarked hleft
        (by omega) (by omega) hfolds.inbox rfl
      refine ⟨u, hrun.trans hrest, hend.phase, hend.first, hend.noError, ?_, hend.inbox, ?_⟩
      · rw [hend.hash, hfolds.hash, ← List.foldl_append, ← blocksOf_append htake, ← List.append_assoc,
          List.take_append_drop]
      · have hreads := Nat.sub_add_cancel (readRequests_pos c.capacity (bs.length - c.capacity))
        rw [hend.outbox, hfolds.outbox, hdrop, hs.config, readRequests_of_gt hpos hmore, Nat.add_sub_cancel,
          ← hreads, Nat.add_sub_cancel, List.replicate_succ, List.append_assoc]
        rfl
    · rw [readRequests_of_le hpos hle] at hinbox ⊢
      exact leadsTo_done_of_last hv hs hm hrem hl hle hinbox

/-- `START` and `LEN`, up to the first read. -/
theorem leadsTo_firstRead {s : State} {l : Nat} {rest : List Byte} (hv : s.cfg.Valid)
    (hr : s.resetIn = false) (hb : AtBoundary s) (hstart : acceptsStart s.phase = true)
    (hl : l < s.cfg.maxLen)
    (hinbox : s.inbox = encode .start ++ (encode (.len (BitVec.ofNat 64 l)) ++ rest)) :
    ∃ t, LeadsTo s t ∧ AwaitsChunk s.cfg l t ∧ t.markerEmitted = false ∧
      t.bytesRemaining = BitVec.ofNat 64 l ∧ t.h = romIV ∧ t.inbox = rest ∧
      t.outbox = s.outbox ++ [headerBits 0x20 0, headerBits 0x21 (BitVec.ofNat 64 s.cfg.capacity)] := by
  obtain ⟨-, -, -, -, hmax⟩ := hv
  have hcount : (BitVec.ofNat 64 l).toNat = l := Nat.mod_eq_of_lt (by omega)
  have hprobe := (step_transaction hr hb rfl rfl hinbox).trans (execStart_eq_next.2 ⟨hstart, rfl⟩)
  set u := enterResting .probe { s with
    inbox := encode (.len (BitVec.ofNat 64 l)) ++ rest, err := 0, h := romIV }
  have hfill := (step_transaction (s := u) hr ⟨rfl, rfl⟩ rfl rfl rfl).trans
    (execLen_eq_next.2 ⟨rfl, .inr ⟨hcount.trans_lt hl, rfl⟩⟩)
  refine ⟨_, (LeadsTo.of_step hprobe).trans (.of_step hfill), ⟨rfl, rfl, hr, rfl, rfl, rfl⟩, rfl, rfl, rfl,
    rfl, ?_⟩
  exact List.append_assoc s.outbox _ _

/-- Settles O60: `START` and `LEN`, then the chunks. -/
theorem runComputesTheMessageHash : Obligations.RunComputesTheMessageHash := by
  intro s m hv hr hb hstart hlen hinbox
  obtain ⟨-, -, -, -, hmax⟩ := id hv
  rw [hashTrace_eq, List.cons_append, List.singleton_append, traceBytes_cons, traceBytes_cons] at hinbox
  obtain ⟨u, hfirst, hawaits, hm, hrem, hh, hin, hout⟩ := leadsTo_firstRead hv hr hb hstart hlen hinbox
  obtain ⟨t, hrest, hend⟩ := leadsTo_done hv hawaits hm hrem (by omega) rfl hin
  obtain ⟨k, hrun⟩ := hfirst.trans hrest
  have hhash : t.h = messageHash m := by rw [hend.hash, hh, ← padMessage_eq]; rfl
  refine ⟨k, t, hrun, ⟨by rw [hend.phase]; rfl, hend.first⟩, hend.phase, hend.noError, hhash, ?_,
    hend.inbox, ?_⟩
  · rw [digest_of_done hend.phase, hhash]
  · have hreads := Nat.sub_add_cancel (readRequests_pos s.cfg.capacity m.length)
    rw [hend.outbox, hout, hashOutbox, ← hreads, Nat.add_sub_cancel, List.replicate_succ]
    simp

end Sys2Proof.Machine
end

/-! ## The Expander's functions and its two operations (spec/41_schedule_expander.md R140 to R143) -/

section
namespace Sys2Proof.Machine

/-! ### `σ0` and `σ1`, bit by bit -/

/-- A right shift by `n` brings in zeros above bit `31 - n`. -/
theorem getLsbD_shr {n : Nat} (hn : n < 32) (x : Word) (i : Nat) :
    (shr x n).getLsbD i = if i ≤ 31 - n then x.getLsbD (i + n) else false := by
  rw [shr, BitVec.getLsbD_ushiftRight, Nat.add_comm n i]
  split_ifs with h
  · rfl
  · exact BitVec.getLsbD_of_ge x (i + n) (by omega)

/-- The shape that `σ0` and `σ1` share: two rotations and a shift. -/
theorem getLsbD_rotr_xor_rotr_xor_shr {a b c i : Nat} (ha : a < 32) (hb : b < 32) (hc : c < 32) (x : Word)
    (hi : i < 32) : (rotr x a ^^^ rotr x b ^^^ shr x c).getLsbD i =
      ((x.getLsbD ((i + a) % 32) ^^ x.getLsbD ((i + b) % 32)) ^^
        (if i ≤ 31 - c then x.getLsbD (i + c) else false)) := by
  rw [BitVec.getLsbD_xor, BitVec.getLsbD_xor, getLsbD_rotr ha hi, getLsbD_rotr hb hi, getLsbD_shr hc]

/-- Settles O11: the bits of the rotations and of the shift; the listed values are evaluated. -/
theorem smallSigmaBits : Obligations.SmallSigmaBits :=
  ⟨fun _ => ⟨rfl, rfl⟩,
    fun x _ => getLsbD_rotr_xor_rotr_xor_shr (a := 7) (b := 18) (c := 3)
      (by decide) (by decide) (by decide) x,
    fun x _ => getLsbD_rotr_xor_rotr_xor_shr (a := 17) (b := 19) (c := 10)
      (by decide) (by decide) (by decide) x,
    by decide, by decide⟩

/-! ### A format U word as a number (R76) -/

/-- A word whose bytes begin with an operation, whatever follows, is read as that operation. -/
theorem decodeTableWord_of_decode {nbits w : Nat} {i : Instr}
    (h : ∀ rest, decode (numberBytes (nbits / 8) w ++ rest) = .ok (i, rest)) :
    decodeTableWord nbits w = some i := by
  have hbytes : tableBytes nbits w = numberBytes (nbits / 8) w := by
    simp only [tableBytes, List.append_assoc, h, List.length_append, Nat.add_sub_cancel, List.take_left]
  have hd := h []
  rw [List.append_nil] at hd
  rw [decodeTableWord, hbytes, hd]

/-- `uop` in bits 15:8, `idx` in bits 5:0. -/
theorem numberBytes_uop (u : Byte) (t : BitVec 6) :
    numberBytes 2 (u.toNat * 2 ^ 8 + t.toNat) = uopBytes u t := by
  have ht : t.toNat < 64 := t.isLt
  have hhigh : BitVec.ofNat 8 ((u.toNat * 2 ^ 8 + t.toNat) / 2 ^ 8) = u :=
    BitVec.eq_of_toNat_eq (by rw [BitVec.toNat_ofNat]; omega)
  have hlow : BitVec.ofNat 8 ((u.toNat * 2 ^ 8 + t.toNat) / 2 ^ 0) = t.setWidth 8 :=
    BitVec.eq_of_toNat_eq (by rw [BitVec.toNat_ofNat, BitVec.toNat_setWidth]; omega)
  exact congrArg₂ (fun a b => [a, b]) hhigh hlow

theorem decodeTableWord_uop {u : Byte} {t : BitVec 6} {i : Instr}
    (h : ∀ rest, decode (uopBytes u t ++ rest) = .ok (i, rest)) :
    decodeTableWord 16 (u.toNat * 2 ^ 8 + t.toNat) = some i :=
  decodeTableWord_of_decode (by rwa [numberBytes_uop])

/-! ### `LDW` and `SCHED` -/

/-- Below 64 the recurrence reads four words of `W`. -/
theorem recurrenceWord_eq_getElem (w : Vector Word 64) {t : Nat} (ht : t < 64) : recurrenceWord w t =
    w[t - 16] + sigma0 w[t - 15] + w[t - 7] + sigma1 w[t - 2] := by
  rw [recurrenceWord, scheduleWord_eq_getElem w (by omega), scheduleWord_eq_getElem w (by omega),
    scheduleWord_eq_getElem w (by omega), scheduleWord_eq_getElem w (by omega)]
  rfl

/-- Settles O31: one word of `W` is set, to `BE32` of four bytes of the block. -/
theorem loadWordIsBigEndian : Obligations.LoadWordIsBigEndian := by
  intro s t ht
  refine ⟨decodeTableWord_uop (u := 0x50) (decode_uop_ldw ht), _, execLdw_eq_next.2 ⟨ht, rfl⟩, ?_,
    fun _ hk hne => Vector.getElem_set_ne t.isLt hk hne.symm, rfl, fun _ => rfl⟩
  rw [Vector.getElem_set_self, loadedWord_eq_be32 s.blk ht, toNat_be32]

/-- Settles O32: one word of `W` is set, to what the recurrence gives. -/
theorem scheduleWordFollowsTheRecurrence : Obligations.ScheduleWordFollowsTheRecurrence := by
  intro s t ht
  refine ⟨decodeTableWord_uop (u := 0x51) (decode_uop_sched ht), _, execSched_eq_next.2 ⟨ht, rfl⟩, ?_,
    fun _ hk hne => Vector.getElem_set_ne t.isLt hk hne.symm, rfl, fun _ => rfl⟩
  rw [Vector.getElem_set_self, recurrenceWord_eq_getElem s.w t.isLt]

end Sys2Proof.Machine
end

/-! ## The Core's functions and its three operations (spec/42_compression_core.md R160 to R166) -/

section
namespace Sys2Proof.Machine

/-! ### `Σ0` and `Σ1`, bit by bit -/

/-- The shape that `Σ0` and `Σ1` share: three rotations. -/
theorem getLsbD_rotr_xor_rotr_xor_rotr {a b c i : Nat} (ha : a < 32) (hb : b < 32) (hc : c < 32) (x : Word)
    (hi : i < 32) : (rotr x a ^^^ rotr x b ^^^ rotr x c).getLsbD i =
      ((x.getLsbD ((i + a) % 32) ^^ x.getLsbD ((i + b) % 32)) ^^ x.getLsbD ((i + c) % 32)) := by
  rw [BitVec.getLsbD_xor, BitVec.getLsbD_xor, getLsbD_rotr ha hi, getLsbD_rotr hb hi, getLsbD_rotr hc hi]

/-- Settles O12: the bits of the three rotations; the listed values are evaluated. -/
theorem bigSigmaBits : Obligations.BigSigmaBits :=
  ⟨fun _ => ⟨rfl, rfl⟩,
    fun x _ => getLsbD_rotr_xor_rotr_xor_rotr (a := 2) (b := 13) (c := 22)
      (by decide) (by decide) (by decide) x,
    fun x _ => getLsbD_rotr_xor_rotr_xor_rotr (a := 6) (b := 11) (c := 25)
      (by decide) (by decide) (by decide) x,
    by decide, by decide⟩

/-! ### `Ch` and `Maj`, bit by bit -/

/-- Above bit 31 all three words are zero, so the bound of the complement is not needed. -/
theorem getLsbD_choose (x y z : Word) (i : Nat) :
    (choose x y z).getLsbD i = if x.getLsbD i then y.getLsbD i else z.getLsbD i := by
  rw [choose, BitVec.getLsbD_xor, BitVec.getLsbD_and, BitVec.getLsbD_and, BitVec.getLsbD_not]
  by_cases hi : i < 32
  · cases x.getLsbD i <;> simp [hi]
  · simp [BitVec.getLsbD_of_ge _ i (Nat.le_of_not_lt hi)]

/-- The two terms of `Ch` never have a 1 in the same place. -/
theorem choose_eq_or (x y z : Word) : choose x y z = (x &&& y) ||| (~~~x &&& z) := by
  refine BitVec.eq_of_getLsbD_eq fun i hi => ?_
  rw [getLsbD_choose, BitVec.getLsbD_or, BitVec.getLsbD_and, BitVec.getLsbD_and, BitVec.getLsbD_not]
  cases x.getLsbD i <;> simp [hi]

/-- The exclusive or of the three conjunctions is a 1 where two or three of the bits are. -/
theorem getLsbD_majority (x y z : Word) (i : Nat) : (majority x y z).getLsbD i =
    decide (2 ≤ (x.getLsbD i).toNat + (y.getLsbD i).toNat + (z.getLsbD i).toNat) := by
  have hbits : ∀ a b c : Bool, ((a && b) ^^ (a && c) ^^ (b && c)) =
      decide (2 ≤ a.toNat + b.toNat + c.toNat) := by decide
  simp only [majority, BitVec.getLsbD_xor, BitVec.getLsbD_and, hbits]

/-- A count does not depend on the order of what it counts. -/
theorem majority_swap_left (x y z : Word) : majority x y z = majority y x z :=
  BitVec.eq_of_getLsbD_eq fun i _ => by
    rw [getLsbD_majority, getLsbD_majority, Nat.add_comm (x.getLsbD i).toNat]

theorem majority_swap_right (x y z : Word) : majority x y z = majority x z y :=
  BitVec.eq_of_getLsbD_eq fun i _ => by
    rw [getLsbD_majority, getLsbD_majority, Nat.add_right_comm]

/-- Settles O13: the two functions bit by bit; the listed values are evaluated. -/
theorem chooseAndMajorityBits : Obligations.ChooseAndMajorityBits :=
  ⟨getLsbD_choose, fun x y z => ⟨rfl, choose_eq_or x y z⟩, fun _ _ _ => rfl, getLsbD_majority,
    fun x y z => ⟨majority_swap_left x y z, majority_swap_right x y z⟩,
    by decide, by decide, by decide, by decide⟩

/-! ### `LDV`, `FFWD` and `ROUND` -/

theorem getElem_feedForward (h v : Vector Word 8) {k : Nat} (hk : k < 8) :
    (feedForward h v)[k] = add32 h[k] v[k] := by
  interval_cases k <;> rfl

/-- Settles O33: `LDV` sets `v` to `H`, and each word of the feed-forward is one `add32`. -/
theorem hashStateIsLoadedAndFedForward : Obligations.HashStateIsLoadedAndFedForward := by
  refine ⟨decodeTableWord_uop (u := 0x60) (t := 0) (decodeEncodeRoundTrip .ldv · rfl),
    decodeTableWord_uop (u := 0x62) (t := 0) (decodeEncodeRoundTrip .ffwd · rfl), fun s =>
    ⟨⟨{ s with v := s.h }, rfl, fun _ _ => rfl, rfl, fun _ => rfl⟩,
      ⟨{ s with h := feedForward s.h s.v }, rfl, fun k hk => ?_, rfl, fun _ => rfl⟩⟩⟩
  rw [getElem_feedForward s.h s.v hk, toNat_add32]

/-- The index of a `ROUND` has 6 bits, so it reads a word of each table. -/
theorem exec_round (i : BitVec 6) (s : State) : exec (.round i) s =
    .next { s with v := roundOf s.v (romK[i.toNat]'i.isLt) (s.w[i.toNat]'i.isLt) } := by
  rw [exec, execRound, scheduleWord_eq_getElem romK i.isLt, scheduleWord_eq_getElem s.w i.isLt]

/-- Settles O34: the eight entries of `roundOf`, where `t1` and `t2` are `roundT1` and `roundT2`. -/
theorem roundRewritesTheWorkingVariables : Obligations.RoundRewritesTheWorkingVariables := by
  rintro s i _ _ rfl rfl
  exact ⟨decodeTableWord_uop (u := 0x61) (decode_uop_round i), _, exec_round i s,
    rfl, rfl, rfl, rfl, rfl, rfl, rfl, rfl, rfl, fun _ => rfl⟩

end Sys2Proof.Machine
end

/-! ## The digest as hexadecimal digits (spec/43_digest_output.md R182) -/

section
namespace Sys2Proof.Machine

/-- Strings of `n` entries each, put together: entry `m` of string `k` stands at offset `nk + m`. -/
theorem getElem?_flatMap_of_length {α β : Type} {f : α → List β} {n : Nat} (hf : ∀ x, (f x).length = n)
    {l : List α} {k m : Nat} (hk : k < l.length) (hm : m < n) :
    (l.flatMap f)[n * k + m]? = (f l[k])[m]? := by
  induction l generalizing k with
  | nil => exact absurd hk (Nat.not_lt_zero k)
  | cons x xs ih =>
    rw [List.flatMap_cons]
    cases k with
    | zero => rw [Nat.mul_zero, Nat.zero_add, List.getElem?_append_left (by rwa [hf]), List.getElem_cons_zero]
    | succ k =>
      have hoffset : n * (k + 1) + m = (f x).length + (n * k + m) := by rw [hf, Nat.mul_succ]; omega
      rw [hoffset, List.getElem?_append_right (Nat.le_add_right ..), Nat.add_sub_cancel_left,
        ih (Nat.lt_of_succ_lt_succ hk), List.getElem_cons_succ]

/-- Every nibble has its digit, so the value that `hexDigit` falls back on is never taken. -/
theorem getElem?_digits (n : BitVec 4) :
    ['0', '1', '2', '3', '4', '5', '6', '7', '8', '9', 'a', 'b', 'c', 'd', 'e', 'f'][n.toNat]? =
      some (hexDigit n) := by
  rw [hexDigit, List.getD_eq_getElem _ _ n.isLt, List.getElem?_eq_getElem n.isLt]

/-- A slice of a slice: the offsets add. -/
theorem extractLsb'_extractLsb'_add {w i m j n : Nat} (x : BitVec w) (h : j + n ≤ m) :
    (x.extractLsb' i m).extractLsb' j n = x.extractLsb' (i + j) n := by
  refine BitVec.eq_of_getLsbD_eq fun b hb => ?_
  have hinside : j + b < m := by omega
  simp only [BitVec.getLsbD_extractLsb', hb, hinside, decide_true, Bool.true_and, Nat.add_assoc]

/-- A word as eight digits: its part of `HEX(H)`. -/
def hexWord (w : Word) : List Char := (bytesBE32 w).flatMap hexByte

theorem length_hexWord (w : Word) : (hexWord w).length = 8 := rfl

theorem hexDigest_eq_flatMap_hexWord (h : Vector Word 8) : hexDigest h = h.toList.flatMap hexWord :=
  List.flatMap_assoc

/-- Digit `m` of a word is that of bits `31-4m : 28-4m`: byte `m / 2` holds it in its upper half where `m` is
even, in its lower half where `m` is odd. -/
theorem hexWord_getElem? (w : Word) {m : Nat} (hm : m < 8) :
    (hexWord w)[m]? = some (hexDigit (w.extractLsb' (28 - 4 * m) 4)) := by
  have hword : hexWord w = [28, 24, 20, 16, 12, 8, 4, 0].map fun i => hexDigit (w.extractLsb' i 4) := by
    simp [hexWord, bytesBE32, hexByte, extractLsb'_extractLsb'_add]
  rw [hword]
  interval_cases m <;> rfl

/-- Settles O51: `HEX(H)` is eight strings of eight digits, one for each word. -/
theorem hexDigestNibbles : Obligations.HexDigestNibbles := by
  intro h
  rw [hexDigest_eq_flatMap_hexWord]
  refine ⟨by simp [length_hexWord], fun k m hk hm => ?_⟩
  have hnibble : h[k].toNat / 2 ^ (28 - 4 * m) % 16 = (h[k].extractLsb' (28 - 4 * m) 4).toNat := by
    rw [BitVec.extractLsb'_toNat, Nat.shiftRight_eq_div_pow]
  rw [getElem?_flatMap_of_length length_hexWord (by simpa using hk) hm, Vector.getElem_toList,
    hexWord_getElem? h[k] hm, hnibble, getElem?_digits]

end Sys2Proof.Machine
end

/-! ## Into FAILED and out of it (spec/60_exceptions.md R200, R208, R211, R213) -/

section
namespace Sys2Proof.Machine

theorem errorCode_ne_zero (e : ErrorKind) : errorCode e ≠ 0 := by
  cases e <;> decide

/-! ### Into FAILED -/

theorem planChunk_phase_ne_failed (n : BitVec 64) (s : State) : (planChunk n s).phase ≠ .failed := by
  by_cases h : n.toNat = s.cfg.capacity
  · simp [planChunk_full h]
  · simp [planChunk_partial h]

/-- An incoming transaction that ends in FAILED has raised an error, so its code is in `err`; `START` raises
none. -/
theorem exec_incoming_enters_failed {i : Instr} {s t : State} (hin : incomingOp i = true)
    (h : exec i s = .next t) (ht : t.phase = .failed) :
    t.err ≠ 0 ∧ ((∃ l, i = .len l) ∨ i = .lenFail ∨ (∃ n p, i = .data n p) ∨ i = .rdFail) := by
  rcases incomingOp_cases hin with rfl | hi
  · obtain ⟨-, rfl⟩ := execStart_eq_next.1 h
    cases ht
  refine ⟨?_, hi⟩
  rcases hi with ⟨l, rfl⟩ | rfl | ⟨n, p, rfl⟩ | rfl
  · obtain ⟨-, ⟨-, rfl⟩ | ⟨-, rfl⟩⟩ := execLen_eq_next.1 h
    · exact errorCode_ne_zero .oversize
    · cases ht
  · obtain ⟨-, rfl⟩ := execLenFail_eq_next.1 h
    exact errorCode_ne_zero .sizeProbeFail
  · obtain ⟨-, -, ⟨e, -, rfl⟩ | ⟨-, -, rfl⟩ | ⟨-, -, -, rfl⟩⟩ := execData_eq_next.1 h
    · exact errorCode_ne_zero e
    · cases ht
    · exact absurd ht (planChunk_phase_ne_failed n _)
  · obtain ⟨-, rfl⟩ := execRdFail_eq_next.1 h
    exact errorCode_ne_zero .readFail

/-- The sequencer does not enter FAILED: no row of R117 but those of the transactions leads there. -/
theorem phase_of_advance_failed {i : Instr} {s : State} (h : (advance i s).phase = .failed) :
    s.phase = .failed := by
  cases i with
  | start | len _ | lenFail | data _ _ | rdFail | lenReq | rdReq _ | done | error _ | mark => exact h
  | suffix | slice | synth | ldv => cases h
  | zfill =>
    simp only [advance, afterZfill] at h
    split at h
    · cases h
    · exact h
  | ldw _ | sched _ | round _ =>
    simp only [advance, afterScheduleWord, afterRound] at h
    split at h <;> exact h
  | ffwd =>
    simp only [advance, afterBlock] at h
    split_ifs at h
    all_goals cases h

/-- An issued operation leaves the phase to the sequencer. -/
theorem exec_issued_phase {i : Instr} {s t : State} (hissued : issuedOp s = some i)
    (h : exec i s = .next t) : t.phase = s.phase := by
  obtain ⟨-, -, -, -, -, -, -, -, -, -, -, -, -, -, -, -, hphase, -⟩ := onlyTheNamedOperationsWrite i s t h
  simpa [incomingOp_of_issuedOp hissued] using hphase

/-- Settles O48: of what a step can do, only an incoming transaction enters FAILED. -/
theorem errorsComeFromFourTransactions : Obligations.ErrorsComeFromFourTransactions := by
  intro s t h hs ht
  rcases step_eq_next.1 h with ⟨-, rfl⟩ | ⟨-, rfl⟩ | ⟨i, s', u, hf, he, rfl⟩
  · cases ht
  · exact absurd ht hs
  obtain ⟨-, ⟨hissued, rfl⟩ | ⟨-, hin, -⟩⟩ := fetch_eq_run hf
  · exact absurd ((exec_issued_phase hissued he).symm.trans (phase_of_advance_failed ht)) hs
  · rw [advance_of_incoming hin] at ht ⊢
    obtain ⟨herr, hi⟩ := exec_incoming_enters_failed hin he ht
    exact ⟨herr, i, s', hf, hi⟩

/-! ### Out of FAILED -/

theorem fetchIncoming_ne_reset (s : State) : fetchIncoming s ≠ .reset := by
  unfold fetchIncoming
  split
  · simp
  split
  · split <;> simp
  · simp

/-- The reset event is taken only where the host has applied reset (R230). -/
theorem resetIn_of_fetch_reset {s : State} (h : fetch s = .reset) : s.resetIn = true := by
  by_contra hr
  rw [fetch_eq s (by simpa using hr)] at h
  cases ho : issuedOp s with
  | none => exact fetchIncoming_ne_reset s (by simpa [ho] using h)
  | some i => simp [ho] at h

/-- FAILED accepts no transaction but `START` (R77). -/
theorem eq_start_of_exec_in_failed {i : Instr} {s t : State} (hin : incomingOp i = true)
    (h : exec i s = .next t) (hs : s.phase = .failed) : i = .start := by
  rcases incomingOp_cases hin with rfl | ⟨l, rfl⟩ | rfl | ⟨n, p, rfl⟩ | rfl
  · rfl
  · obtain ⟨hp, -⟩ := execLen_eq_next.1 h
    cases hs.symm.trans hp
  · obtain ⟨hp, -⟩ := execLenFail_eq_next.1 h
    cases hs.symm.trans hp
  · obtain ⟨-, hp, -⟩ := execData_eq_next.1 h
    cases hs.symm.trans hp
  · obtain ⟨hp, -⟩ := execRdFail_eq_next.1 h
    cases hs.symm.trans hp

/-- Settles O49: a step from FAILED takes reset, waits, emits a placed `ERROR` again, or runs `START`. -/
theorem failedEndsTheRun : Obligations.FailedEndsTheRun := by
  intro s t h hs
  rcases step_eq_next.1 h with ⟨hf, rfl⟩ | ⟨-, rfl⟩ | ⟨i, s', u, hf, he, rfl⟩
  · exact .inr (.inl ⟨resetIn_of_fetch_reset hf, rfl⟩)
  · exact .inl ⟨hs, rfl⟩
  obtain ⟨-, ⟨hissued, rfl⟩ | ⟨-, hin, rest, -, rfl⟩⟩ := fetch_eq_run hf
  · obtain rfl : i = .error s'.err := by simpa [hs] using issuedOp_cases hissued
    cases he
    exact .inl ⟨hs, rfl⟩
  · obtain rfl := eq_start_of_exec_in_failed hin he hs
    obtain ⟨-, rfl⟩ := execStart_eq_next.1 he
    exact .inr (.inr ⟨_, hf, rfl, rfl, rfl⟩)

end Sys2Proof.Machine
end

/-! ## The reset event (spec/70_reset_and_hazards.md R230) -/

section
namespace Sys2Proof.Machine

/-- Where reset is applied it is fetched before anything else: neither `phase` nor the interface is looked at. -/
theorem fetch_of_resetIn {s : State} (hr : s.resetIn = true) : fetch s = .reset := by
  rw [fetch, if_pos hr]

theorem step_of_resetIn {s : State} (hr : s.resetIn = true) : step s = .next (applyReset s) :=
  step_eq_next.2 (.inl ⟨fetch_of_resetIn hr, rfl⟩)

/-- Settles O44: the step is the reset event, whose fields are those of `applyReset`. -/
theorem resetEventFromAnyState : Obligations.ResetEventFromAnyState := fun s hr =>
  ⟨applyReset s, step_of_resetIn hr, applyReset_phase s, applyReset_err s, applyReset_markerEmitted s,
    applyReset_synthPending s, applyReset_cfg s, rfl⟩

end Sys2Proof.Machine
end
